-- ==== Sys2Proof/Word.lean ====
section
/-! DEFINITION. The widths of the K8090 frame unit (00_scope.md R6, R8). -/

namespace Sys2Proof

/-- `u8` (R8): one byte of a frame. -/
abbrev Byte := BitVec 8

/-- `u16` (R8): seconds, and the info word of a diagnostic (R160). -/
abbrev Half := BitVec 16

/-- The seven bytes of a frame as one word, byte 0 in bits 55:48 (R60, R88). -/
abbrev FrameBits := BitVec 56

/-- Entity index: a relay or a button, 0 to 7 (R9, R40). -/
abbrev Idx := Fin 8

end Sys2Proof
end

