-- ==== Sys2Proof/Config.lean ====
section
/-! DEFINITION. The parameters of 00_scope.md R6. All but `settleMs` are constants the spec fixes. -/

namespace Sys2Proof.Config

/-- STX, byte 0 of every frame sent, and the constant of the checksum sum (R6, R80). -/
def stx : Byte := 0x04#8

/-- ETX, byte 6 of every frame sent (R6). -/
def etx : Byte := 0x0F#8

/-- RXCHUNK (R6, D15): the bytes the unit asks for in each `RxRead` (R43). -/
def rxChunk : Nat := 7

/-- DELAY_RESET, in seconds (R6, R12). -/
def delayReset : Half := 5

/-- FW_YEAR_BASE (R6, R20). -/
def fwYearBase : Nat := 2000

/-- SETTLE_MS (R6, R143, U12, D29): an open parameter, nominal 100. The model has no time and no
definition of it reads this value (log 23). -/
opaque settleMs : Nat

end Sys2Proof.Config
end

