-- ==== Sys2Proof/Syntax.lean ====
section
/-! DEFINITION. The instructions: one constructor per row of spec/opcode_table.json, in the table's order. -/

namespace Sys2Proof

/-- The validator's inputs (R88): `dec_len`, the byte count of a buffer, and `dec_buf`, its first 7 bytes. -/
structure ValidatorIn where
  len  : Nat
  bits : FrameBits
  deriving DecidableEq, Repr

/-- The rows of the opcode table. Host operations take the operands of R73 and R74 (entity index,
seconds as the signed integer of the command port, raw mode code); responses take the bytes of a
received frame but its checksum, which the other bytes determine (R82); the codec functions take
their arguments, DECODE its buffer as the validator's port carries it (R88). -/
inductive Instr where
  /-- RELAY_ON r`id` (R111). -/
  | relayOn (id : Idx)
  /-- RELAY_OFF r`id` (R112). -/
  | relayOff (id : Idx)
  /-- RELAY_TOGGLE r`id` (R113). -/
  | relayToggle (id : Idx)
  /-- START_TIMER r`id` [, seconds] (R114): `none` is `cmd_has_opnd` = 0. -/
  | startTimer (id : Idx) (secs : Option Int)
  /-- SET_DELAY r`id`, seconds (R116). -/
  | setDelay (id : Idx) (secs : Int)
  /-- SET_BUTTON_MODE b`id`, mode code (R118); the code 3 is no mode (R16). -/
  | setButtonMode (id : Idx) (code : BitVec 2)
  /-- QUERY_RELAY_STATUS (R120), also INIT's first frame (R147). -/
  | queryRelayStatus
  /-- QUERY_BUTTON_MODE (R121), also INIT's second frame (R147). -/
  | queryButtonMode
  /-- QUERY_JUMPER (R122). -/
  | queryJumper
  /-- QUERY_FIRMWARE (R123). -/
  | queryFirmware
  /-- FACTORY_RESET (R124). -/
  | factoryReset
  /-- READ_FIRMWARE_VERSION (R126). -/
  | readFirmwareVersion
  /-- READ_JUMPER (R127). -/
  | readJumper
  /-- INIT's third frame (R147); no host operation sends it (D23). -/
  | initQueryTimerDelay
  /-- Response 0x22 (R93). -/
  | rspButtonMode (start mask p1 p2 stop : Byte)
  /-- Response 0x44 (R94). -/
  | rspTimerDelay (start mask p1 p2 stop : Byte)
  /-- Response 0x50 (R95). -/
  | rspButtonStatus (start mask p1 p2 stop : Byte)
  /-- Response 0x51 (R96). -/
  | rspRelayStatus (start mask p1 p2 stop : Byte)
  /-- Response 0x70 (R97). -/
  | rspJumper (start mask p1 p2 stop : Byte)
  /-- Response 0x71 (R98). -/
  | rspFirmware (start mask p1 p2 stop : Byte)
  /-- A checksum-valid frame with any other command byte (R99). -/
  | rspUnknown (start command mask p1 p2 stop : Byte)
  /-- READ_RELAY r`id` (R128). -/
  | readRelay (id : Idx)
  /-- READ_BUTTON b`id` (R129). -/
  | readButton (id : Idx)
  /-- CLOSE (R149). -/
  | close
  /-- CHECKSUM(command, mask, param1, param2) (R80). -/
  | checksum (command mask p1 p2 : Byte)
  /-- ENCODE(command, mask, param1, param2) (R81). -/
  | encode (command mask p1 p2 : Byte)
  /-- DECODE of a buffer of any length (R82), as the validator's inputs carry it (R88); `Instr.decodeOf`
  (Decode.lean) gives it for a byte sequence. -/
  | decode (buf : ValidatorIn)
  deriving DecidableEq, Repr

end Sys2Proof
end

