-- ==== Sys2Proof/WellFormed.lean ====
section
/-! DEFINITION. Which instructions an encoding can carry. -/

namespace Sys2Proof

/-- The signed range of `cmd_opnd`, 32 bits two's complement (R6 OPW, R73). A value outside 0 to 65535
is well formed: the port carries it and the range check of R114 and R116 rejects it. -/
abbrev FitsOperand (s : Int) : Prop := -(2 ^ 31) ≤ s ∧ s < 2 ^ 31

/-- The six response codes the dispatcher recognises (R67). -/
def responseCodes : List Byte := [0x22#8, 0x44#8, 0x50#8, 0x51#8, 0x70#8, 0x71#8]

/-- The checks: seconds fit the port (R73), RSP_UNKNOWN has none of the six recognised codes (R69,
R99). Every other operand is bounded by its type. -/
def Instr.wellFormed : Instr → Bool
  | .startTimer _ secs => match secs with
    | some s => decide (FitsOperand s)
    | none => true
  | .setDelay _ s => decide (FitsOperand s)
  | .rspUnknown _ c _ _ _ _ => !responseCodes.contains c
  | .relayOn _ | .relayOff _ | .relayToggle _ | .setButtonMode _ _ | .queryRelayStatus
  | .queryButtonMode | .queryJumper | .queryFirmware | .factoryReset | .readFirmwareVersion
  | .readJumper | .initQueryTimerDelay | .rspButtonMode _ _ _ _ _ | .rspTimerDelay _ _ _ _ _
  | .rspButtonStatus _ _ _ _ _ | .rspRelayStatus _ _ _ _ _ | .rspJumper _ _ _ _ _
  | .rspFirmware _ _ _ _ _ | .readRelay _ | .readButton _ | .close | .checksum _ _ _ _
  | .encode _ _ _ _ | .decode _ => true

/-- An instruction that some encoding of the spec carries. -/
abbrev Instr.WellFormed (i : Instr) : Prop := i.wellFormed = true

end Sys2Proof
end

