-- ==== Sys2Proof/Decode.lean ====
section
/-! DEFINITION. The frame codec (40_frame_codec.md), the three decoders of the unit (command port,
response dispatcher, codec ports), the encoder, and the reading of opcode-table words. -/

namespace Sys2Proof

/-! ## The frame codec -/

/-- S of R80: the exact sum, start byte included. -/
def frameSum (c m p q : Byte) : Nat :=
  Config.stx.toNat + c.toNat + m.toNat + p.toNat + q.toNat

/-- CHECKSUM (R80): `(~S + 1) & 0xFF` on the unbounded integer S. -/
def checksum (c m p q : Byte) : Byte :=
  BitVec.ofInt 8 (~~~(frameSum c m p q : Int) + 1)

/-- ENCODE (R81): the seven bytes of a frame, byte 0 first (R45). -/
def encodeFrame (c m p q : Byte) : List Byte :=
  [Config.stx, c, m, p, q, checksum c m p q, Config.etx]

/-- DECODE's answer (R82). -/
inductive DecodeResult where
  | ok (command mask p1 p2 : Byte)
  | lengthError
  | checksumError
  deriving DecidableEq, Repr

/-- DECODE (R82 to R84): length first, then the checksum recomputed with the constant 0x04; the
marker bytes do not enter the answer (R86). -/
def decodeFrame (buf : List Byte) : DecodeResult :=
  match buf with
  | [_, c, m, p, q, k, _] => if k = checksum c m p q then .ok c m p q else .checksumError
  | _ => .lengthError

/-- The marker mismatch (R71, R86): a 7-byte buffer whose first or last byte is not the marker. -/
def markerMismatch (buf : List Byte) : Bool :=
  match buf with
  | [s, _, _, _, _, _, e] => decide (s ≠ Config.stx ∨ e ≠ Config.etx)
  | _ => false

/-! ## The codec's port forms (R88) -/

/-- The first 7 bytes of a buffer as a port carries them, byte 0 in bits 55:48. A byte the buffer does not
have is a don't-care of the port; the encoder puts 0 there (log 32). -/
def packFrame (buf : List Byte) : FrameBits :=
  buf.getD 0 0 ++ buf.getD 1 0 ++ buf.getD 2 0 ++ buf.getD 3 0 ++ buf.getD 4 0 ++ buf.getD 5 0 ++ buf.getD 6 0

/-- The seven bytes a port carries. -/
def unpackFrame (w : FrameBits) : List Byte :=
  [w.extractLsb' 48 8, w.extractLsb' 40 8, w.extractLsb' 32 8, w.extractLsb' 24 8,
   w.extractLsb' 16 8, w.extractLsb' 8 8, w.extractLsb' 0 8]

/-- The marshaller's output `enc_frame`. -/
def encFrame (c m p q : Byte) : FrameBits := packFrame (encodeFrame c m p q)

/-- The validator's answer from `dec_len` and `dec_buf`: no bit of `dec_buf` counts unless `dec_len` is 7 (R83). -/
def validate (buf : ValidatorIn) : DecodeResult :=
  if buf.len = 7 then decodeFrame (unpackFrame buf.bits) else .lengthError

/-- `dec_marker_warn` from `dec_len` and `dec_buf`. -/
def decMarkerWarn (buf : ValidatorIn) : Bool :=
  decide (buf.len = 7) && markerMismatch (unpackFrame buf.bits)

/-- A byte sequence at the validator's inputs. -/
def validatorIn (buf : List Byte) : ValidatorIn := { len := buf.length, bits := packFrame buf }

/-- DECODE of a byte sequence. -/
def Instr.decodeOf (buf : List Byte) : Instr := .decode (validatorIn buf)

/-! ## What stands at the input ports -/

/-- The command port (R73): five fields presented together. -/
structure CmdWord where
  op      : BitVec 4
  id      : BitVec 3
  hasOpnd : Bool
  mode    : BitVec 2
  opnd    : BitVec 32
  deriving DecidableEq, Repr

/-- The inputs of the codec's combinational ports (R88), one form for each of its functions: `enc_cmd`,
`enc_mask`, `enc_p1`, `enc_p2`; `dec_len`, `dec_buf`. -/
inductive CodecIn where
  | sum (command mask p1 p2 : Byte)
  | enc (command mask p1 p2 : Byte)
  | dec (buf : ValidatorIn)
  deriving DecidableEq, Repr

/-- An undecoded instruction, at the place the unit takes it from: the command port, the receive
buffer port, INIT's own sequence, or the codec ports. -/
inductive PortWord where
  | cmd (w : CmdWord)
  | rx (buf : List Byte)
  | init (frame : List Byte)
  | codec (q : CodecIn)
  deriving DecidableEq, Repr

/-! ## Decoding -/

/-- Why a decoder gives no instruction. The first two are R91's; the third is for a frame that is
none of INIT's three (R147). -/
inductive Reject where
  | rxLength (n : Nat)
  | rxChecksum (received computed : Byte)
  | notAnInitFrame
  deriving DecidableEq, Repr

/-- A decoder's answer. -/
inductive Decoded where
  | instr (i : Instr)
  | reject (r : Reject)
  deriving DecidableEq, Repr

/-- Op-select decode (R73): all sixteen codes are defined; fields an operation does not use are
ignored. -/
def decodeCmd (w : CmdWord) : Instr :=
  match w.op.toNat with
  | 0x0 => .relayOn w.id.toFin
  | 0x1 => .relayOff w.id.toFin
  | 0x2 => .relayToggle w.id.toFin
  | 0x3 => .startTimer w.id.toFin (if w.hasOpnd then some w.opnd.toInt else none)
  | 0x4 => .setDelay w.id.toFin w.opnd.toInt
  | 0x5 => .setButtonMode w.id.toFin w.mode
  | 0x6 => .queryRelayStatus
  | 0x7 => .queryButtonMode
  | 0x8 => .queryJumper
  | 0x9 => .queryFirmware
  | 0xA => .factoryReset
  | 0xB => .readFirmwareVersion
  | 0xC => .readJumper
  | 0xD => .readRelay w.id.toFin
  | 0xE => .readButton w.id.toFin
  | _   => .close

/-- The dispatcher's selection (R67, R69, R100): all eight bits of the command byte and nothing else. -/
def responseOf (s c m p q e : Byte) : Instr :=
  if c = 0x22#8 then .rspButtonMode s m p q e
  else if c = 0x44#8 then .rspTimerDelay s m p q e
  else if c = 0x50#8 then .rspButtonStatus s m p q e
  else if c = 0x51#8 then .rspRelayStatus s m p q e
  else if c = 0x70#8 then .rspJumper s m p q e
  else if c = 0x71#8 then .rspFirmware s m p q e
  else .rspUnknown s c m p q e

/-- A receive buffer read as a response (R90): accepted by length and checksum, markers not tested. -/
def decodeRx (buf : List Byte) : Decoded :=
  match buf with
  | [s, c, m, p, q, k, e] =>
    if k = checksum c m p q then .instr (responseOf s c m p q e)
    else .reject (.rxChecksum k (checksum c m p q))
  | _ => .reject (.rxLength buf.length)

/-- INIT's frames (R147) and the rows they are. -/
def decodeInit (frame : List Byte) : Decoded :=
  if frame = encodeFrame 0x18#8 0x00#8 0x00#8 0x00#8 then .instr .queryRelayStatus
  else if frame = encodeFrame 0x22#8 0x00#8 0x00#8 0x00#8 then .instr .queryButtonMode
  else if frame = encodeFrame 0x44#8 0xFF#8 0x00#8 0x00#8 then .instr .initQueryTimerDelay
  else .reject .notAnInitFrame

/-- The codec function a codec-port input asks for (R75, R88). -/
def decodeCodec : CodecIn → Instr
  | .sum c m p q => .checksum c m p q
  | .enc c m p q => .encode c m p q
  | .dec buf => .decode buf

/-- The instruction at an input port. -/
def decode : PortWord → Decoded
  | .cmd w => .instr (decodeCmd w)
  | .rx buf => decodeRx buf
  | .init frame => decodeInit frame
  | .codec q => .instr (decodeCodec q)

/-! ## Encoding -/

/-- A command word with the fields an operation does not use at zero. -/
def cmdWord (op : BitVec 4) (id : Idx := 0) (hasOpnd : Bool := false) (mode : BitVec 2 := 0)
    (opnd : Int := 0) : CmdWord :=
  { op, id := BitVec.ofFin id, hasOpnd, mode, opnd := BitVec.ofInt 32 opnd }

/-- A received frame with the given marker bytes and the checksum that makes it acceptable. -/
def rxFrame (s c m p q e : Byte) : List Byte :=
  [s, c, m, p, q, checksum c m p q, e]

/-- Where an instruction stands and the word it stands there as (R60, R67, R73, R88, R147). -/
def encode : Instr → PortWord
  | .relayOn id => .cmd (cmdWord 0x0 id)
  | .relayOff id => .cmd (cmdWord 0x1 id)
  | .relayToggle id => .cmd (cmdWord 0x2 id)
  | .startTimer id none => .cmd (cmdWord 0x3 id)
  | .startTimer id (some s) => .cmd (cmdWord 0x3 id true 0 s)
  | .setDelay id s => .cmd (cmdWord 0x4 id false 0 s)
  | .setButtonMode id code => .cmd (cmdWord 0x5 id false code)
  | .queryRelayStatus => .cmd (cmdWord 0x6)
  | .queryButtonMode => .cmd (cmdWord 0x7)
  | .queryJumper => .cmd (cmdWord 0x8)
  | .queryFirmware => .cmd (cmdWord 0x9)
  | .factoryReset => .cmd (cmdWord 0xA)
  | .readFirmwareVersion => .cmd (cmdWord 0xB)
  | .readJumper => .cmd (cmdWord 0xC)
  | .initQueryTimerDelay => .init (encodeFrame 0x44#8 0xFF#8 0x00#8 0x00#8)
  | .rspButtonMode s m p q e => .rx (rxFrame s 0x22#8 m p q e)
  | .rspTimerDelay s m p q e => .rx (rxFrame s 0x44#8 m p q e)
  | .rspButtonStatus s m p q e => .rx (rxFrame s 0x50#8 m p q e)
  | .rspRelayStatus s m p q e => .rx (rxFrame s 0x51#8 m p q e)
  | .rspJumper s m p q e => .rx (rxFrame s 0x70#8 m p q e)
  | .rspFirmware s m p q e => .rx (rxFrame s 0x71#8 m p q e)
  | .rspUnknown s c m p q e => .rx (rxFrame s c m p q e)
  | .readRelay id => .cmd (cmdWord 0xD id)
  | .readButton id => .cmd (cmdWord 0xE id)
  | .close => .cmd (cmdWord 0xF)
  | .checksum c m p q => .codec (.sum c m p q)
  | .encode c m p q => .codec (.enc c m p q)
  | .decode buf => .codec (.dec buf)

/-! ## Words of the opcode table -/

/-- The relay a one-bit mask selects (R63); no operation of the unit sends another mask. -/
def relayOfMask (m : Byte) : Option Idx :=
  if m = 0x01#8 then some 0 else if m = 0x02#8 then some 1 else if m = 0x04#8 then some 2
  else if m = 0x08#8 then some 3 else if m = 0x10#8 then some 4 else if m = 0x20#8 then some 5
  else if m = 0x40#8 then some 6 else if m = 0x80#8 then some 7 else none

/-- The row of the map of transmitted frames (R66) that four payload bytes belong to. READ_FIRMWARE_VERSION
and READ_JUMPER send the frames of QUERY_FIRMWARE and QUERY_JUMPER (R75) and are read as those;
START_TIMER with its seconds omitted sends the frame of seconds 0 (R114) and is read as that; a
SET_BUTTON_MODE frame carries all eight modes and not the operands of the operation that sent it (R118),
so it is read as none. -/
def sentRow (c m p q : Byte) : Option Instr :=
  if c = 0x41#8 then (relayOfMask m).map fun id => .startTimer id (some ((p ++ q).toNat : Int))
  else if c = 0x42#8 then (relayOfMask m).map fun id => .setDelay id ((p ++ q).toNat : Int)
  else if p ≠ 0 ∨ q ≠ 0 then none
  else if c = 0x11#8 then (relayOfMask m).map .relayOn
  else if c = 0x12#8 then (relayOfMask m).map .relayOff
  else if c = 0x14#8 then (relayOfMask m).map .relayToggle
  else if c = 0x44#8 ∧ m = 0xFF#8 then some .initQueryTimerDelay
  else if m ≠ 0 then none
  else if c = 0x18#8 then some .queryRelayStatus
  else if c = 0x22#8 then some .queryButtonMode
  else if c = 0x70#8 then some .queryJumper
  else if c = 0x71#8 then some .queryFirmware
  else if c = 0x66#8 then some .factoryReset
  else none

/-- The operation that sends a frame, read back from its seven bytes: markers and checksum as ENCODE
writes them (R62), and a row of the map. No part of the unit reads its own frames (R68); this is for
words of the opcode table (log 12). -/
def decodeTx (frame : List Byte) : Option Instr :=
  match frame with
  | [s, c, m, p, q, k, e] =>
    if s = Config.stx ∧ k = checksum c m p q ∧ e = Config.etx then sentRow c m p q else none
  | _ => none

/-- The seven bytes of a 56-bit word, byte 0 in bits 55:48 (R8, R60). -/
def frameOfWord (w : Nat) : List Byte := unpackFrame (BitVec.ofNat 56 w)

/-- DESIGN CHOICE (log 11): the fields of R73 from bit 0 up in the order R73 lists them; `cmd_op` is in
bits 3:0 as the table has it. -/
def cmdOfWord (w : Nat) : CmdWord :=
  { op := BitVec.ofNat 4 w, id := BitVec.ofNat 3 (w >>> 4), hasOpnd := (w >>> 7) % 2 == 1,
    mode := BitVec.ofNat 2 (w >>> 8), opnd := BitVec.ofNat 32 (w >>> 10) }

/-- The instruction a word of the opcode table stands for. DESIGN CHOICE (log 12): a table word says
nothing of its direction, so a 56-bit word is read as a frame the unit sends where it is one and else
as a response; a word of any other length is a command-port word, with no bit above its 42. -/
def decodeTableWord (nbits w : Nat) : Option Instr :=
  if nbits = 56 then
    if w < 2 ^ 56 then
      match decodeTx (frameOfWord w) with
      | some i => some i
      | none => match decodeRx (frameOfWord w) with
        | .instr i => some i
        | .reject _ => none
    else none
  else if w < 2 ^ 42 then some (decodeCmd (cmdOfWord w))
  else none

end Sys2Proof
end

