-- ==== Sys2Proof/Machine/Bank.lean ====
section
/-! DEFINITION. A register file of eight like entries, as plain data (10_state.md R12, R15). -/

namespace Sys2Proof.Machine

/-- Eight entries, index = identity (R12, R15). -/
structure Bank (α : Type) where
  e0 : α
  e1 : α
  e2 : α
  e3 : α
  e4 : α
  e5 : α
  e6 : α
  e7 : α
  deriving DecidableEq, Repr

namespace Bank

/-- Entry i. -/
def get {α : Type} (b : Bank α) (i : Idx) : α :=
  match i with
  | 0 => b.e0
  | 1 => b.e1
  | 2 => b.e2
  | 3 => b.e3
  | 4 => b.e4
  | 5 => b.e5
  | 6 => b.e6
  | 7 => b.e7

/-- The file whose entry i is `f i`: all eight lanes written at once (R101). -/
def ofFn {α : Type} (f : Idx → α) : Bank α :=
  { e0 := f 0, e1 := f 1, e2 := f 2, e3 := f 3, e4 := f 4, e5 := f 5, e6 := f 6, e7 := f 7 }

/-- Every entry the same. -/
def replicate {α : Type} (v : α) : Bank α := ofFn fun _ => v

/-- Entry i replaced. -/
def set {α : Type} (b : Bank α) (i : Idx) (v : α) : Bank α :=
  ofFn fun j => if j = i then v else b.get j

end Bank

end Sys2Proof.Machine
end

