-- ==== Sys2Proof/Machine/State.lean ====
section
/-! DEFINITION. The state of the K8090 frame unit (10_state.md), what stands at its input ports, what it
has put on its output ports, the reasons a step can stop, and the state after reset. -/

namespace Sys2Proof.Machine

/-! ## The mirror -/

/-- Button mode (R16). The code 3 is no mode, so the register cannot hold it (R17). -/
inductive Mode where
  | momentary
  | toggle
  | timed
  deriving DecidableEq, Repr

/-- Button action (R18). -/
inductive Action where
  | inactive
  | pressed
  | released
  deriving DecidableEq, Repr

/-- One relay entry (R12). Its `id` is a constant, not storage (R11, R14). -/
structure Relay where
  delay       : Half
  timerActive : Bool
  status      : Bool
  deriving DecidableEq, Repr

/-- One button entry (R15). Its `id` is a constant, not storage (R11, R14). -/
structure Button where
  mode    : Mode
  pressed : Bool
  action  : Action
  deriving DecidableEq, Repr

/-- `fw_year` and `fw_week` (R20). -/
structure FwVer where
  year : Byte
  week : Byte
  deriving DecidableEq, Repr

/-- The mirror (R9, R10). FWVER is an optional pair and JUMPER an optional boolean, as R191 asks:
`some` is valid bit 1, `none` is valid bit 0 (log 8). -/
structure Mirror where
  relays  : Bank Relay
  buttons : Bank Button
  fwver   : Option FwVer
  jumper  : Option Bool
  deriving DecidableEq, Repr

/-! ## The sequencer -/

/-- `phase` (R23). -/
inductive Phase where
  | idle
  | validate
  | update
  | tx
  | settle
  | drain
  | init
  | closed
  deriving DecidableEq, Repr

/-- Which of INIT's three frames is next (R147). The model's own (log 5). -/
inductive InitSlot where
  | relayStatus
  | buttonMode
  | timerDelay
  deriving DecidableEq, Repr

/-! ## Ports -/

/-- The transport's answer to `TxWrite` (R41). -/
inductive TxAnswer where
  | ok
  | error
  deriving DecidableEq, Repr

/-- The transport's answer to `RxRead(n)` (R43): how many bytes it takes from the front of its queue, and how
many of these it returns, each at most n. Where it takes fewer than n the read is short; where it returns
fewer than it takes, the read timed out and the bytes it had taken are lost (U9; log 3). -/
structure RxAnswer where
  takes : Nat
  gives : Nat
  deriving DecidableEq, Repr

/-- A read that returns every byte it takes. -/
def RxAnswer.full (k : Nat) : RxAnswer := { takes := k, gives := k }

/-- Diagnostic codes (R160). -/
inductive DiagCode where
  | length
  | checksum
  | unknownCmd
  | markerWarn
  deriving DecidableEq, Repr

/-- One record of the diagnostics port (R160, R162). -/
structure Diag where
  code : DiagCode
  info : Half
  deriving DecidableEq, Repr

/-- Result codes (R161). `errValType` and `errValBool` are allocated and no rule produces them (R117, R130). -/
inductive ResCode where
  | ok
  | errValMode
  | errValRange
  | errValType
  | errValBool
  | errTransport
  deriving DecidableEq, Repr

/-- What READ_JUMPER returns (R21, R127). -/
inductive JumperValue where
  | set
  | notSet
  | unknown
  deriving DecidableEq, Repr

/-- `res_data` (R73): the value of a read operation. -/
inductive ResData where
  | none
  | firmware (v : Option FwVer)
  | jumper (v : JumperValue)
  | relay (delay : Half) (timerActive status : Bool)
  | button (mode : Mode) (pressed : Bool) (action : Action)
  deriving DecidableEq, Repr

/-- The codec's outputs (R88): the checksum; `enc_frame`, 56 bits; the validator's answer and
`dec_marker_warn`. An output R88 calls meaningful only when `dec_ok` = 1 has no value otherwise (log 30). -/
inductive CodecOut where
  | sum (k : Byte)
  | frame (bits : FrameBits)
  | decoded (r : DecodeResult) (markerWarn : Bool)
  deriving DecidableEq, Repr

/-- One item at an output of the unit. -/
inductive Event where
  /-- The phase register takes a new value (R140); `busy` and `cmd_ready` follow it (R25, R141). -/
  | phase (p : Phase)
  /-- A frame offered to `TxWrite`, and the answer (R41). -/
  | tx (frame : List Byte) (answer : TxAnswer)
  /-- A record on the diagnostics port (R162). -/
  | diag (d : Diag)
  /-- A record on the result port (R161). -/
  | result (code : ResCode) (data : ResData)
  /-- The pulse on the close output (R149, D1). -/
  | closePulse
  /-- The codec's ports (R88). -/
  | codecOut (o : CodecOut)
  deriving DecidableEq, Repr

/-! ## State -/

/-- Everything R10 lists (`mirror`, `phase`, `closed`), then the model's own fields: the position
inside INIT (log 5), the accepted command (log 4), the reset pin and the host's and codec's inputs
(log 7), the transport (log 2) and the record of the outputs since the last reset (log 6).

The transport is four lists: its coming answers to `TxWrite` (R41); the bytes waiting in its receive
queue, first byte first (R42, R43); the bytes that arrive in each coming settle (R143); its coming answers
to `RxRead` (R43: it may return fewer bytes than it is asked for, or time out). -/
structure State where
  mirror    : Mirror
  phase     : Phase
  closed    : Bool
  initAt    : InitSlot
  cmdReg    : CmdWord
  rst       : Bool
  cmds      : List CmdWord
  codec     : List CodecIn
  txAnswers : List TxAnswer
  rxQueue   : List Byte
  arrivals  : List (List Byte)
  rxAnswers : List RxAnswer
  trace     : List Event
  deriving DecidableEq, Repr

/-- Reasons for a fault. The unit has no trap and no handler (R169, R170), and every input its ports can
carry has an outcome the rules give, so there is none: no step of this machine faults. -/
inductive Fault where
  deriving DecidableEq, Repr

/-- Reasons for a refusal. -/
inductive Refusal where
  /-- Raised by an arm of `exec` for an instruction that has no meaning yet; no arm raises it. Safe. -/
  | notModelled (mnemonic : String)
  /-- Raised by every host operation but CLOSE when the phase is CLOSED: "every operation other than CLOSE
  is refused: the command is not accepted and has no effect and no result" (R150, U11). Safe. -/
  | afterClose
  /-- Raised by INIT_QUERY_TIMER_DELAY outside its place in INIT: the frame is "sent by the start-up sequence
  only" and no host operation sends it (R66, R147, D23; log 17). Safe. -/
  | outsideInit
  /-- Raised by the sequencer in a busy phase whose command register holds an operation that has no such
  phase, a state no run reaches (log 25). Safe. -/
  | noOperation
  deriving DecidableEq, Repr

/-- The mirror after reset (R28). `status`, `timerActive`, `pressed` and `action` are the spec's decision D7 (log 9). -/
def Mirror.reset : Mirror :=
  { relays  := Bank.replicate { delay := Config.delayReset, timerActive := false, status := false }
    buttons := Bank.replicate { mode := .toggle, pressed := false, action := .inactive }
    fwver   := none
    jumper  := none }

/-- The state right after reset (R28, R190): INIT is about to run. The model's own fields are empty or
zero (DESIGN CHOICE, logs 2, 4, 5, 6, 7). -/
def State.reset : State :=
  { mirror    := Mirror.reset
    phase     := .init
    closed    := false
    initAt    := .relayStatus
    cmdReg    := { op := 0, id := 0, hasOpnd := false, mode := 0, opnd := 0 }
    rst       := false
    cmds      := []
    codec     := []
    txAnswers := []
    rxQueue   := []
    arrivals  := []
    rxAnswers := []
    trace     := [] }

end Sys2Proof.Machine
end

