-- ==== Sys2Proof/Machine/Flags.lean ====
section
/-! DEFINITION. The status flags, complete (10_state.md R25), and the validator's flags (40_frame_codec.md
R88). The unit has no arithmetic condition codes. -/

namespace Sys2Proof.Machine

/-- `fw_valid` (R20, R25). -/
def fwValid (m : Mirror) : Bool := m.fwver.isSome

/-- `jp_valid` (R21, R25). -/
def jpValid (m : Mirror) : Bool := m.jumper.isSome

/-- `busy` (R25): the phase is none of IDLE, CLOSED. -/
def busy (s : State) : Bool := decide (s.phase ≠ .idle ∧ s.phase ≠ .closed)

/-- `cmd_ready` (R141): an operation is accepted only when the phase is IDLE. CLOSE when CLOSED is the
one exception (R149). -/
def cmdReady (s : State) : Bool := decide (s.phase = .idle)

/-- `dec_ok` (R88). -/
def decOk (buf : List Byte) : Bool :=
  match decodeFrame buf with
  | .ok _ _ _ _ => true
  | .lengthError => false
  | .checksumError => false

/-- `dec_len_err` (R88). -/
def decLenErr (buf : List Byte) : Bool := decodeFrame buf == .lengthError

/-- `dec_sum_err` (R88). -/
def decSumErr (buf : List Byte) : Bool := decodeFrame buf == .checksumError

end Sys2Proof.Machine
end

