-- ==== Sys2Proof/Machine/Operands.lean ====
section
/-! DEFINITION. Operand forms and bit fields: relay select, bit-field decode, seconds, modes, numeric
codes, the firmware string (30_encoding.md section 2, 10_state.md R16 to R21). -/

namespace Sys2Proof.Machine

/-- `id` of a relay: a hardwired constant (R14). -/
def relayIdent (i : Idx) : Byte := BitVec.ofNat 8 i.val

/-- `id` of a button: a hardwired constant (R14). -/
def buttonIdent (i : Idx) : Byte := BitVec.ofNat 8 i.val

/-- `1 << id` (R63). -/
def relayMask (i : Idx) : Byte := 1#8 <<< i.val

/-- `v[i]` = `(v >> i) & 1` (R64): bit 0 is entity 0. -/
def bitOf (v : Byte) (i : Idx) : Bool := (v >>> i.val) &&& 1 == 1

/-- OR of `1 << i` over the entities `f` selects (R87, R119). -/
def maskOf (f : Idx → Bool) : Byte :=
  let lane (i : Idx) : Byte := if f i then 1#8 <<< i.val else 0
  lane 0 ||| lane 1 ||| lane 2 ||| lane 3 ||| lane 4 ||| lane 5 ||| lane 6 ||| lane 7

/-- The range of START_TIMER and SET_DELAY (R114 to R116): 0 to 65535 inclusive. -/
def secondsInRange (s : Int) : Bool := decide (¬ (s < 0 ∨ s > 65535))

/-- `(s >> 8) & 0xFF` (R65), sent as param1 (R46). -/
def secondsHigh (s : Int) : Byte := BitVec.ofInt 8 (s >>> (8 : Nat))

/-- `s & 0xFF` (R65), sent as param2 (R46). -/
def secondsLow (s : Int) : Byte := BitVec.ofInt 8 s

/-- `(param1 << 8) | param2` (R65), the delay of a 0x44 report. -/
def secondsOf (p q : Byte) : Half := (p.setWidth 16 <<< 8) ||| q.setWidth 16

/-- The mode a 2-bit code names; 3 names none (R16). -/
def modeOfCode (c : BitVec 2) : Option Mode :=
  if c = 0 then some .momentary
  else if c = 1 then some .toggle
  else if c = 2 then some .timed
  else none

/-- The 2-bit code of a mode (R16). -/
def modeCode : Mode → BitVec 2
  | .momentary => 0
  | .toggle => 1
  | .timed => 2

/-- The 2-bit code of an action (R18). -/
def actionCode : Action → BitVec 2
  | .inactive => 0
  | .pressed => 1
  | .released => 2

/-- The 3-bit code of a phase (R23). -/
def phaseCode : Phase → BitVec 3
  | .idle => 0
  | .validate => 1
  | .update => 2
  | .tx => 3
  | .settle => 4
  | .drain => 5
  | .init => 6
  | .closed => 7

/-- `diag_code` (R160). -/
def diagNumber : DiagCode → BitVec 3
  | .length => 1
  | .checksum => 2
  | .unknownCmd => 3
  | .markerWarn => 4

/-- `res_code` (R161). -/
def resNumber : ResCode → BitVec 4
  | .ok => 0
  | .errValMode => 1
  | .errValRange => 2
  | .errValType => 3
  | .errValBool => 4
  | .errTransport => 5

/-- FwString() (R20): "Unknown", or the shortest decimals of the year and the week with a full stop. -/
def fwString : Option FwVer → String
  | none => "Unknown"
  | some v => toString (Config.fwYearBase + v.year.toNat) ++ "." ++ toString v.week.toNat

/-- The jumper as READ_JUMPER returns it (R21, R127): UNKNOWN is a third value. -/
def jumperValue : Option Bool → JumperValue
  | none => .unknown
  | some true => .set
  | some false => .notSet

end Sys2Proof.Machine
end

