-- ==== Sys2Proof/Machine/Ops.lean ====
section
/-! DEFINITION. The shared operations: output ports, the transport, the six report handlers, receive
processing, the drain, SendAndSync, the shape of a host operation, error results, and reset. -/

namespace Sys2Proof.Machine

/-- What the meaning of an instruction answers. -/
abbrev Result := Host.Outcome State Fault Refusal

/-! ## Writing the state -/

/-- Puts one item on an output port. -/
def State.emit (e : Event) (s : State) : State := { s with trace := s.trace ++ [e] }

/-- `diag(code, info)` (R8, R162): appends one record and ends nothing. -/
def State.emitDiag (c : DiagCode) (info : Half) (s : State) : State :=
  s.emit (.diag { code := c, info := info })

/-- `phase <- p` (R23); the trace shows a change of the register. -/
def State.setPhase (p : Phase) (s : State) : State :=
  if s.phase = p then s else { s with phase := p, trace := s.trace ++ [Event.phase p] }

/-- The phase write at the head of TX, SETTLE and DRAIN (R140). Inside INIT the phase is INIT
throughout (R147; log 14). -/
def State.enterStage (p : Phase) (s : State) : State :=
  if s.phase = .init then s else s.setPhase p

/-- The mirror replaced. -/
def State.setMirror (m : Mirror) (s : State) : State := { s with mirror := m }

/-- One relay entry rewritten. -/
def Mirror.setRelay (i : Idx) (r : Relay) (m : Mirror) : Mirror :=
  { m with relays := m.relays.set i r }

/-- One button entry rewritten. -/
def Mirror.setButton (i : Idx) (b : Button) (m : Mirror) : Mirror :=
  { m with buttons := m.buttons.set i b }

/-! ## The end of an operation -/

/-- How an operation ends (R140, R169): the phase returns to IDLE and the result port reports. Nothing
is saved and control goes nowhere: an error result is this operation too. -/
def State.endWith (c : ResCode) (d : ResData) (s : State) : State :=
  (s.setPhase .idle).emit (.result c d)

/-! ## The report handlers (R93 to R98): what a response writes in the mirror -/

/-- H22 (R93): momentary over toggle over timed; no bit, no change. -/
def h22 (m p q : Byte) (r : Mirror) : Mirror :=
  { r with buttons := Bank.ofFn fun i =>
      let b := r.buttons.get i
      if bitOf m i then { b with mode := .momentary }
      else if bitOf p i then { b with mode := .toggle }
      else if bitOf q i then { b with mode := .timed }
      else b }

/-- H44 (R94): the relays the mask selects take the 16-bit delay. -/
def h44 (m p q : Byte) (r : Mirror) : Mirror :=
  { r with relays := Bank.ofFn fun i =>
      if bitOf m i then { r.relays.get i with delay := secondsOf p q } else r.relays.get i }

/-- H50 (R95): `pressed` of all eight; `action` PRESSED over RELEASED, else unchanged. -/
def h50 (m p q : Byte) (r : Mirror) : Mirror :=
  { r with buttons := Bank.ofFn fun i =>
      let b := { r.buttons.get i with pressed := bitOf m i }
      if bitOf p i then { b with action := .pressed }
      else if bitOf q i then { b with action := .released }
      else b }

/-- H51 (R96): `status` and `timer_active` of all eight, from param1 and param2; the mask is ignored. -/
def h51 (_m p q : Byte) (r : Mirror) : Mirror :=
  { r with relays := Bank.ofFn fun i =>
      { r.relays.get i with status := bitOf p i, timerActive := bitOf q i } }

/-- H70 (R97): the jumper is set when param1 >= 1. -/
def h70 (_m p _q : Byte) (r : Mirror) : Mirror :=
  { r with jumper := some (decide (p.toNat ≥ 1)) }

/-- H71 (R98): year offset and week, no range check. -/
def h71 (_m p q : Byte) (r : Mirror) : Mirror :=
  { r with fwver := some { year := p, week := q } }

/-- A handler's write, all at once (R50). -/
def State.applyReport (h : Mirror → Mirror) (s : State) : State := s.setMirror (h s.mirror)

/-! ## Receive processing (R90 to R92, R99, R100) -/

/-- The marker warning (R92): once per 7-byte buffer, before the checksum test. -/
def State.warnMarkers (start stop : Byte) (s : State) : State :=
  if start ≠ Config.stx ∨ stop ≠ Config.etx then s.emitDiag .markerWarn (start ++ stop) else s

/-- The UNKNOWN_CMD report (R99, R160): the frame is dropped. -/
def State.reportUnknown (c : Byte) (s : State) : State := s.emitDiag .unknownCmd (c.setWidth 16)

/-- DISPATCH (R100). -/
def dispatch (c m p q : Byte) (s : State) : State :=
  if c = 0x22#8 then s.applyReport (h22 m p q)
  else if c = 0x44#8 then s.applyReport (h44 m p q)
  else if c = 0x50#8 then s.applyReport (h50 m p q)
  else if c = 0x51#8 then s.applyReport (h51 m p q)
  else if c = 0x70#8 then s.applyReport (h70 m p q)
  else if c = 0x71#8 then s.applyReport (h71 m p q)
  else s.reportUnknown c

/-- `diag_info` of LENGTH (R160): the length, saturating at 255. -/
def lengthInfo (n : Nat) : Half := BitVec.ofNat 16 (min n 255)

/-- RxProcess (R90): length, markers (a warning), checksum, dispatch. -/
def rxProcess (buf : List Byte) (s : State) : State :=
  match buf with
  | [b0, c, m, p, q, k, b6] =>
    let s := s.warnMarkers b0 b6
    if k ≠ checksum c m p q then s.emitDiag .checksum (k ++ checksum c m p q)
    else dispatch c m p q s
  | _ => s.emitDiag .length (lengthInfo buf.length)

/-! ## The transport (R41 to R44) -/

/-- The transport's answer to the next `TxWrite` (R41); an answer the environment has not scheduled is
ok (log 2). -/
def State.nextAnswer (s : State) : TxAnswer :=
  match s.txAnswers with
  | [] => .ok
  | a :: _ => a

/-- `TxWrite` (R41): the frame is offered and the transport answers. -/
def txWrite (frame : List Byte) (s : State) : TxAnswer × State :=
  (s.nextAnswer, { s with txAnswers := s.txAnswers.tail, trace := s.trace ++ [Event.tx frame s.nextAnswer] })

/-- `RxAvail()` (R42): the number of received bytes waiting in the transport. -/
def rxAvail (s : State) : Nat := s.rxQueue.length

/-- The transport's answer to the next `RxRead(n)`; one the environment has not scheduled is a full read
(log 2). -/
def State.nextRxAnswer (n : Nat) (s : State) : RxAnswer := s.rxAnswers.headD (.full n)

/-- How many bytes the next `RxRead(n)` takes from the queue: never more than n (R43). -/
def State.readTakes (n : Nat) (s : State) : Nat := min n (s.nextRxAnswer n).takes

/-- `RxRead(n)` (R43): removes up to n bytes from the front of the receive queue and returns them in
arrival order; a timed-out read returns fewer than it removed, possibly none. -/
def rxRead (n : Nat) (s : State) : List Byte × State :=
  ((s.rxQueue.take (s.readTakes n)).take (s.nextRxAnswer n).gives,
    { s with rxQueue := s.rxQueue.drop (s.readTakes n), rxAnswers := s.rxAnswers.tail })

/-- `close()` (R44, R149): one pulse on the close output. -/
def transportClose (s : State) : State := s.emit .closePulse

/-! ## Settle and drain (R143, R144) -/

/-- The bytes the environment adds to the receive queue in the next settle (R143). -/
def State.nextArrival (s : State) : List Byte := s.arrivals.headD []

/-- The environment's move: bytes that have arrived stand at the end of the receive queue (R143). -/
def State.arrive (s : State) : State :=
  { s with rxQueue := s.rxQueue ++ s.nextArrival, arrivals := s.arrivals.tail }

/-- Settle() (R143): the phase is SETTLE and the unit reads and writes nothing; the environment's bytes
arrive here. -/
def settle (s : State) : State := (s.enterStage .settle).arrive

/-- The loop of Drain() (R144), at most `fuel` times round. -/
def drainLoop : Nat → State → State
  | 0, s => s
  | fuel + 1, s =>
    if rxAvail s = 0 then s
    else drainLoop fuel (rxProcess (rxRead Config.rxChunk s).1 (rxRead Config.rxChunk s).2)

/-- Drain() (R144). Each time round takes a byte or uses up a scheduled answer, so the fuel is enough and the
queue is empty at the end (`drain_eq`); that both are finite is log 20. -/
def drain (s : State) : State :=
  drainLoop (s.rxQueue.length + s.rxAnswers.length) (s.enterStage .drain)

/-! ## SendAndSync and the shape of a host operation (R110, R140, R142) -/

/-- The four payload bytes of a command frame (R142). -/
structure Payload where
  command : Byte
  mask    : Byte
  p1      : Byte
  p2      : Byte
  deriving DecidableEq, Repr

/-- SendAndSync (R142): on a write error no settle and no drain, and the receive queue is untouched. -/
def sendAndSync (f : Payload) (s : State) : TxAnswer × State :=
  match txWrite (encodeFrame f.command f.mask f.p1 f.p2) (s.enterStage .tx) with
  | (.error, t) => (.error, t)
  | (.ok, t) => (.ok, drain (settle t))

/-- What R110 leaves to each transmitting operation: the operand check, the local update (R116 and
R118 only), the payload (SET_BUTTON_MODE reads the mirror for it, R119), the value returned. -/
structure Plan where
  check   : Option ResCode := none
  update  : Option (Mirror → Mirror) := none
  payload : Mirror → Payload
  reply   : Mirror → ResData := fun _ => .none

/-- SETTLE to the end (R140). -/
def Plan.afterWrite (p : Plan) (s : State) : State :=
  (drain (settle s)).endWith .ok (p.reply (drain (settle s)).mirror)

/-- TX to the end (R140, R142). -/
def Plan.fromTx (p : Plan) (s : State) : State :=
  match sendAndSync (p.payload s.mirror) s with
  | (.error, t) => t.endWith .errTransport .none
  | (.ok, t) => t.endWith .ok (p.reply t.mirror)

/-- UPDATE to the end (R140): the local write comes before the frame is built (R56, R118). -/
def Plan.fromUpdate (p : Plan) (s : State) : State :=
  match p.update with
  | none => p.fromTx s
  | some u => p.fromTx ((s.setPhase .update).applyReport u)

/-- VALIDATE to the end (R110, R140): a failed check changes nothing and sends nothing (R130). -/
def Plan.fromValidate (p : Plan) (s : State) : State :=
  match p.check with
  | some e => (s.setPhase .validate).endWith e .none
  | none => p.fromUpdate (s.setPhase .validate)

/-- The command register takes the accepted command (log 4). -/
def State.accept (i : Instr) (s : State) : State :=
  match encode i with
  | .cmd w => { s with cmdReg := w }
  | .rx _ => s
  | .init _ => s
  | .codec _ => s

/-- Acceptance (R141, R150): a presented operation runs when IDLE, is refused when CLOSED, and waits at
the port, with no effect, while the unit is busy (log 16). -/
def whenAccepted (s : State) (run : State → State) : Result :=
  match s.phase with
  | .idle => .next (run s)
  | .closed => .refused .afterClose
  | .validate => .next s
  | .update => .next s
  | .tx => .next s
  | .settle => .next s
  | .drain => .next s
  | .init => .next s

/-- A transmitting host operation (R110). -/
def transact (i : Instr) (p : Plan) (s : State) : Result :=
  whenAccepted s fun s => p.fromValidate (s.accept i)

/-- A pure read (R26, R128, R129): IDLE to IDLE, one result, nothing else. -/
def pureRead (data : Mirror → ResData) (s : State) : Result :=
  whenAccepted s fun s => s.emit (.result .ok (data s.mirror))

/-! ## INIT (R147, R148) -/

/-- INIT fails (R148): CLOSED, the error reported once, the transport not closed. -/
def initFails (s : State) : State :=
  ({ s with closed := true, initAt := .relayStatus }.setPhase .closed).emit (.result .errTransport .none)

/-- One of INIT's three SendAndSync calls, and where the sequence goes next (R147). -/
def initSync (f : Payload) (go : State → State) (s : State) : State :=
  match sendAndSync f s with
  | (.error, t) => initFails t
  | (.ok, t) => go t

/-! ## Reset (R190, R192) -/

/-- What a reset leaves: every register at its reset value (R28), the operation in progress abandoned
without a result, the transport's queue not flushed (R192), the host's and codec's inputs still to come;
`rst` is released (log 7). -/
def State.applyReset (s : State) : State :=
  { State.reset with cmds := s.cmds, codec := s.codec, txAnswers := s.txAnswers,
                     rxQueue := s.rxQueue, arrivals := s.arrivals, rxAnswers := s.rxAnswers }

end Sys2Proof.Machine
end

