-- ==== Sys2Proof/Machine/ButtonOps.lean ====
section
/-! DEFINITION. The button operations (42_host_commands.md section 3, R129). -/

namespace Sys2Proof.Machine

/-- The buttons in a mode, as a mask byte (R119). -/
def modeMask (m : Mirror) (v : Mode) : Byte := maskOf fun i => (m.buttons.get i).mode == v

/-- SET_BUTTON_MODE (R118): the local mode is written, then the modes of all eight buttons are sent, in
the order momentary, toggle, timed (R119, R56). The code 3 is rejected. -/
def planSetButtonMode (id : Idx) (code : BitVec 2) : Plan :=
  { check := match modeOfCode code with
      | none => some .errValMode
      | some _ => none
    update := some fun m => match modeOfCode code with
      | none => m
      | some v => m.setButton id { m.buttons.get id with mode := v }
    payload := fun m =>
      { command := 0x21#8, mask := modeMask m .momentary, p1 := modeMask m .toggle, p2 := modeMask m .timed } }

/-- SET_BUTTON_MODE b`id`, mode (R118). -/
def execSetButtonMode (id : Idx) (code : BitVec 2) (s : State) : Result :=
  transact (.setButtonMode id code) (planSetButtonMode id code) s

/-- READ_BUTTON b`id` (R129). -/
def execReadButton (id : Idx) (s : State) : Result :=
  pureRead (fun m => .button (m.buttons.get id).mode (m.buttons.get id).pressed (m.buttons.get id).action) s

end Sys2Proof.Machine
end

