-- ==== Sys2Proof/Machine/CloseOps.lean ====
section
/-! DEFINITION. Teardown (43_sync_sequencer.md R149). -/

namespace Sys2Proof.Machine

/-- CLOSE when IDLE: one pulse, `closed <- 1`, `phase <- CLOSED`, OK. -/
def closeUnit (s : State) : State :=
  ({ transportClose s with closed := true }.setPhase .closed).emit (.result .ok .none)

/-- CLOSE (R149): when CLOSED it does nothing and answers OK; while busy it waits at the port (R141).
DESIGN CHOICE (log 31): the unit that INIT's failure left CLOSED answers OK too. R149 says so of every
CLOSED unit; R148 says that such a unit accepts nothing until the next reset. -/
def execClose (s : State) : Result :=
  if s.phase = .closed then .next (s.emit (.result .ok .none))
  else whenAccepted s closeUnit

end Sys2Proof.Machine
end

