-- ==== Sys2Proof/Machine/CodecOps.lean ====
section
/-! DEFINITION. The codec as a block (40_frame_codec.md R80 to R88): combinational, no register read or
written; the outputs appear on the codec's ports in any phase. -/

namespace Sys2Proof.Machine

/-- CHECKSUM (R80). -/
def execChecksum (command mask p1 p2 : Byte) (s : State) : Result :=
  .next (s.emit (.codecOut (.sum (checksum command mask p1 p2))))

/-- ENCODE (R81), on the marshaller's output (R88). -/
def execEncode (command mask p1 p2 : Byte) (s : State) : Result :=
  .next (s.emit (.codecOut (.frame (encFrame command mask p1 p2))))

/-- DECODE (R82) of what stands at the validator's inputs, with the marker flag beside it (R86, R88). -/
def execDecode (buf : ValidatorIn) (s : State) : Result :=
  .next (s.emit (.codecOut (.decoded (validate buf) (decMarkerWarn buf))))

end Sys2Proof.Machine
end

