-- ==== Sys2Proof/Machine/QueryOps.lean ====
section
/-! DEFINITION. The queries, the factory reset, the two property reads and the start-up frame
(42_host_commands.md sections 4 and 5, 43_sync_sequencer.md R147). -/

namespace Sys2Proof.Machine

/-- A frame with a command and all three other bytes zero (D13; log 10). -/
def zeroed (command : Byte) : Payload := { command := command, mask := 0x00#8, p1 := 0x00#8, p2 := 0x00#8 }

/-- QUERY_RELAY_STATUS (R120). -/
def planQueryRelayStatus : Plan := { payload := fun _ => zeroed 0x18#8 }

/-- QUERY_BUTTON_MODE (R121). -/
def planQueryButtonMode : Plan := { payload := fun _ => zeroed 0x22#8 }

/-- QUERY_JUMPER (R122). -/
def planQueryJumper : Plan := { payload := fun _ => zeroed 0x70#8 }

/-- QUERY_FIRMWARE (R123). -/
def planQueryFirmware : Plan := { payload := fun _ => zeroed 0x71#8 }

/-- FACTORY_RESET (R124): nothing is asserted locally. -/
def planFactoryReset : Plan := { payload := fun _ => zeroed 0x66#8 }

/-- READ_FIRMWARE_VERSION (R126): QUERY_FIRMWARE, then the register as the drain left it. -/
def planReadFirmwareVersion : Plan :=
  { payload := fun _ => zeroed 0x71#8, reply := fun m => .firmware m.fwver }

/-- READ_JUMPER (R127): QUERY_JUMPER, then the jumper as the drain left it. -/
def planReadJumper : Plan :=
  { payload := fun _ => zeroed 0x70#8, reply := fun m => .jumper (jumperValue m.jumper) }

/-- QUERY_RELAY_STATUS: in its place in INIT the first start-up frame (R147), else the host operation (R120). -/
def execQueryRelayStatus (s : State) : Result :=
  if s.phase = .init ∧ s.initAt = .relayStatus then
    .next (initSync (zeroed 0x18#8) (fun t => { t with initAt := .buttonMode }) s)
  else transact .queryRelayStatus planQueryRelayStatus s

/-- QUERY_BUTTON_MODE: in its place in INIT the second start-up frame (R147), else the host operation (R121). -/
def execQueryButtonMode (s : State) : Result :=
  if s.phase = .init ∧ s.initAt = .buttonMode then
    .next (initSync (zeroed 0x22#8) (fun t => { t with initAt := .timerDelay }) s)
  else transact .queryButtonMode planQueryButtonMode s

/-- QUERY_JUMPER (R122). -/
def execQueryJumper (s : State) : Result := transact .queryJumper planQueryJumper s

/-- QUERY_FIRMWARE (R123). -/
def execQueryFirmware (s : State) : Result := transact .queryFirmware planQueryFirmware s

/-- FACTORY_RESET (R124). -/
def execFactoryReset (s : State) : Result := transact .factoryReset planFactoryReset s

/-- READ_FIRMWARE_VERSION (R126). -/
def execReadFirmwareVersion (s : State) : Result :=
  transact .readFirmwareVersion planReadFirmwareVersion s

/-- READ_JUMPER (R127). -/
def execReadJumper (s : State) : Result := transact .readJumper planReadJumper s

/-- The end of INIT (R147): `phase <- IDLE`; no result is reported. -/
def initDone (s : State) : State := { s with initAt := .relayStatus }.setPhase .idle

/-- INIT_QUERY_TIMER_DELAY (R147): command 0x44 to all eight relays (D14; log 10), INIT's third frame;
nothing else sends it (D23; log 17). -/
def execInitQueryTimerDelay (s : State) : Result :=
  if s.phase = .init ∧ s.initAt = .timerDelay then
    .next (initSync { command := 0x44#8, mask := 0xFF#8, p1 := 0x00#8, p2 := 0x00#8 } initDone s)
  else .refused .outsideInit

end Sys2Proof.Machine
end

