-- ==== Sys2Proof/Machine/RelayOps.lean ====
section
/-! DEFINITION. The relay operations (42_host_commands.md section 2, R128). -/

namespace Sys2Proof.Machine

/-- RELAY_ON (R111): command 0x11, one relay, no local write (R13). -/
def planRelayOn (id : Idx) : Plan :=
  { payload := fun _ => { command := 0x11#8, mask := relayMask id, p1 := 0x00#8, p2 := 0x00#8 } }

/-- RELAY_OFF (R112): command 0x12. -/
def planRelayOff (id : Idx) : Plan :=
  { payload := fun _ => { command := 0x12#8, mask := relayMask id, p1 := 0x00#8, p2 := 0x00#8 } }

/-- RELAY_TOGGLE (R113): command 0x14; the mirror is not inverted locally. -/
def planRelayToggle (id : Idx) : Plan :=
  { payload := fun _ => { command := 0x14#8, mask := relayMask id, p1 := 0x00#8, p2 := 0x00#8 } }

/-- START_TIMER (R114, R115): the range is checked only when seconds are given; 0 is sent when not. -/
def planStartTimer (id : Idx) (secs : Option Int) : Plan :=
  { check := match secs with
      | none => none
      | some s => if secondsInRange s then none else some .errValRange
    payload := fun _ =>
      { command := 0x41#8, mask := relayMask id, p1 := secondsHigh (secs.getD 0), p2 := secondsLow (secs.getD 0) } }

/-- SET_DELAY (R116): the local delay is written before the frame is sent. -/
def planSetDelay (id : Idx) (secs : Int) : Plan :=
  { check := if secondsInRange secs then none else some .errValRange
    update := some fun m => m.setRelay id { m.relays.get id with delay := BitVec.ofInt 16 secs }
    payload := fun _ =>
      { command := 0x42#8, mask := relayMask id, p1 := secondsHigh secs, p2 := secondsLow secs } }

/-- RELAY_ON r`id` (R111). -/
def execRelayOn (id : Idx) (s : State) : Result := transact (.relayOn id) (planRelayOn id) s

/-- RELAY_OFF r`id` (R112). -/
def execRelayOff (id : Idx) (s : State) : Result := transact (.relayOff id) (planRelayOff id) s

/-- RELAY_TOGGLE r`id` (R113). -/
def execRelayToggle (id : Idx) (s : State) : Result := transact (.relayToggle id) (planRelayToggle id) s

/-- START_TIMER r`id` [, seconds] (R114). -/
def execStartTimer (id : Idx) (secs : Option Int) (s : State) : Result :=
  transact (.startTimer id secs) (planStartTimer id secs) s

/-- SET_DELAY r`id`, seconds (R116). -/
def execSetDelay (id : Idx) (secs : Int) (s : State) : Result :=
  transact (.setDelay id secs) (planSetDelay id secs) s

/-- READ_RELAY r`id` (R128). -/
def execReadRelay (id : Idx) (s : State) : Result :=
  pureRead (fun m => .relay (m.relays.get id).delay (m.relays.get id).timerActive (m.relays.get id).status) s

end Sys2Proof.Machine
end

