-- ==== Sys2Proof/Machine/ResponseOps.lean ====
section
/-! DEFINITION. The responses (41_response_dispatch.md section 2, R99): RxProcess of a buffer whose
length and checksum are right, one row of the dispatcher each. The marker warning comes first (R92). -/

namespace Sys2Proof.Machine

/-- RSP_BUTTON_MODE, 0x22 (R93). -/
def execRspButtonMode (start mask p1 p2 stop : Byte) (s : State) : Result :=
  .next ((s.warnMarkers start stop).applyReport (h22 mask p1 p2))

/-- RSP_TIMER_DELAY, 0x44 (R94). -/
def execRspTimerDelay (start mask p1 p2 stop : Byte) (s : State) : Result :=
  .next ((s.warnMarkers start stop).applyReport (h44 mask p1 p2))

/-- RSP_BUTTON_STATUS, 0x50 (R95). -/
def execRspButtonStatus (start mask p1 p2 stop : Byte) (s : State) : Result :=
  .next ((s.warnMarkers start stop).applyReport (h50 mask p1 p2))

/-- RSP_RELAY_STATUS, 0x51 (R96). -/
def execRspRelayStatus (start mask p1 p2 stop : Byte) (s : State) : Result :=
  .next ((s.warnMarkers start stop).applyReport (h51 mask p1 p2))

/-- RSP_JUMPER, 0x70 (R97). -/
def execRspJumper (start mask p1 p2 stop : Byte) (s : State) : Result :=
  .next ((s.warnMarkers start stop).applyReport (h70 mask p1 p2))

/-- RSP_FIRMWARE, 0x71 (R98). -/
def execRspFirmware (start mask p1 p2 stop : Byte) (s : State) : Result :=
  .next ((s.warnMarkers start stop).applyReport (h71 mask p1 p2))

/-- RSP_UNKNOWN (R99): reported and dropped. -/
def execRspUnknown (start command _mask _p1 _p2 stop : Byte) (s : State) : Result :=
  .next ((s.warnMarkers start stop).reportUnknown command)

end Sys2Proof.Machine
end

