-- ==== Sys2Proof/Machine/Dispatch.lean ====
section
/-! DEFINITION. One arm per row of the opcode table. -/

namespace Sys2Proof.Machine

def exec (i : Instr) (s : State) : Host.Outcome State Fault Refusal :=
  match i with
  | .relayOn id => Sys2Proof.Machine.execRelayOn id s
  | .relayOff id => Sys2Proof.Machine.execRelayOff id s
  | .relayToggle id => Sys2Proof.Machine.execRelayToggle id s
  | .startTimer id secs => Sys2Proof.Machine.execStartTimer id secs s
  | .setDelay id secs => Sys2Proof.Machine.execSetDelay id secs s
  | .setButtonMode id code => Sys2Proof.Machine.execSetButtonMode id code s
  | .queryRelayStatus => Sys2Proof.Machine.execQueryRelayStatus s
  | .queryButtonMode => Sys2Proof.Machine.execQueryButtonMode s
  | .queryJumper => Sys2Proof.Machine.execQueryJumper s
  | .queryFirmware => Sys2Proof.Machine.execQueryFirmware s
  | .factoryReset => Sys2Proof.Machine.execFactoryReset s
  | .readFirmwareVersion => Sys2Proof.Machine.execReadFirmwareVersion s
  | .readJumper => Sys2Proof.Machine.execReadJumper s
  | .initQueryTimerDelay => Sys2Proof.Machine.execInitQueryTimerDelay s
  | .rspButtonMode start mask p1 p2 stop => Sys2Proof.Machine.execRspButtonMode start mask p1 p2 stop s
  | .rspTimerDelay start mask p1 p2 stop => Sys2Proof.Machine.execRspTimerDelay start mask p1 p2 stop s
  | .rspButtonStatus start mask p1 p2 stop => Sys2Proof.Machine.execRspButtonStatus start mask p1 p2 stop s
  | .rspRelayStatus start mask p1 p2 stop => Sys2Proof.Machine.execRspRelayStatus start mask p1 p2 stop s
  | .rspJumper start mask p1 p2 stop => Sys2Proof.Machine.execRspJumper start mask p1 p2 stop s
  | .rspFirmware start mask p1 p2 stop => Sys2Proof.Machine.execRspFirmware start mask p1 p2 stop s
  | .rspUnknown start command mask p1 p2 stop => Sys2Proof.Machine.execRspUnknown start command mask p1 p2 stop s
  | .readRelay id => Sys2Proof.Machine.execReadRelay id s
  | .readButton id => Sys2Proof.Machine.execReadButton id s
  | .close => Sys2Proof.Machine.execClose s
  | .checksum command mask p1 p2 => Sys2Proof.Machine.execChecksum command mask p1 p2 s
  | .encode command mask p1 p2 => Sys2Proof.Machine.execEncode command mask p1 p2 s
  | .decode buf => Sys2Proof.Machine.execDecode buf s

end Sys2Proof.Machine
end

