-- ==== Sys2Proof/Machine/Sequencer.lean ====
section
/-! DEFINITION. The sequencer between the phases of an operation (43_sync_sequencer.md R140): what is left
of the operation in the command register when the unit stands in a busy phase. One host operation is one
step (R7), so a run does not stop in these phases; they are where a reset (R192), a waiting command
(R141) and the single buffers of a drain (R144) can be spoken of (log 1). -/

namespace Sys2Proof.Machine

/-- The plan of a transmitting host operation; none for every other row. -/
def planOf : Instr → Option Plan
  | .relayOn id => some (planRelayOn id)
  | .relayOff id => some (planRelayOff id)
  | .relayToggle id => some (planRelayToggle id)
  | .startTimer id secs => some (planStartTimer id secs)
  | .setDelay id secs => some (planSetDelay id secs)
  | .setButtonMode id code => some (planSetButtonMode id code)
  | .queryRelayStatus => some planQueryRelayStatus
  | .queryButtonMode => some planQueryButtonMode
  | .queryJumper => some planQueryJumper
  | .queryFirmware => some planQueryFirmware
  | .factoryReset => some planFactoryReset
  | .readFirmwareVersion => some planReadFirmwareVersion
  | .readJumper => some planReadJumper
  | .initQueryTimerDelay => none
  | .rspButtonMode _ _ _ _ _ => none
  | .rspTimerDelay _ _ _ _ _ => none
  | .rspButtonStatus _ _ _ _ _ => none
  | .rspRelayStatus _ _ _ _ _ => none
  | .rspJumper _ _ _ _ _ => none
  | .rspFirmware _ _ _ _ _ => none
  | .rspUnknown _ _ _ _ _ _ => none
  | .readRelay _ => none
  | .readButton _ => none
  | .close => none
  | .checksum _ _ _ _ => none
  | .encode _ _ _ _ => none
  | .decode _ => none

/-- The plan of the operation in progress. -/
def currentPlan (s : State) : Option Plan := planOf (decodeCmd s.cmdReg)

/-- The rest of the operation in progress, from the phase the unit stands in. In DRAIN this is the end
of the drain, when no byte is left (R144, R146). -/
def resume (s : State) : Result :=
  match currentPlan s with
  | none => .refused .noOperation
  | some p =>
    match s.phase with
    | .validate => .next (p.fromValidate s)
    | .update => .next (p.fromUpdate s)
    | .tx => .next (p.fromTx s)
    | .settle => .next (p.afterWrite s)
    | .drain => .next (s.endWith .ok (p.reply s.mirror))
    | .idle => .next s
    | .init => .next s
    | .closed => .next s

/-- INIT's next frame (R147), as the row it is. -/
def initInstr : InitSlot → Instr
  | .relayStatus => .queryRelayStatus
  | .buttonMode => .queryButtonMode
  | .timerDelay => .initQueryTimerDelay

end Sys2Proof.Machine
end

