-- ==== Sys2Proof/Machine/Fetch.lean ====
section
/-! DEFINITION. Where the next instruction comes from (logs 7, 13, 18). The unit fetches no program (R23):
an instruction stands at the command port (R73), in the receive queue (R144), in INIT's sequence (R147)
or at the codec's ports (R88). -/

namespace Sys2Proof.Machine

/-- What a step has before it: an instruction, with the state it has been taken from, or a move of the
sequencer that is no instruction. -/
inductive Fetched where
  | run (i : Instr) (s : State)
  | move (r : Result)

/-- The command at the port, if there is one (R141). With none the unit waits (R176). -/
def fetchCommand (s : State) : Fetched :=
  match s.cmds with
  | [] => .move (.next s)
  | w :: later => .run (decodeCmd w) { s with cmds := later }

/-- The next time round the loop of the drain in progress (R144): with bytes waiting, the buffer `RxRead(7)`
returns, which is a response or is discarded (R91); with none, the end of the drain. -/
def fetchResponse (s : State) : Fetched :=
  if rxAvail s = 0 then .move (resume s)
  else match decodeRx (rxRead Config.rxChunk s).1 with
    | .instr i => .run i (rxRead Config.rxChunk s).2
    | .reject _ => .move (.next (rxProcess (rxRead Config.rxChunk s).1 (rxRead Config.rxChunk s).2))

/-- The sequencer's next move (R140, R147). -/
def fetchByPhase (s : State) : Fetched :=
  match s.phase with
  | .idle => fetchCommand s
  | .closed => fetchCommand s
  | .init => .run (initInstr s.initAt) s
  | .drain => fetchResponse s
  | .validate => .move (resume s)
  | .update => .move (resume s)
  | .tx => .move (resume s)
  | .settle => .move (resume s)

/-- What the next step does: reset first (R192), then an input at the codec's ports, then the sequencer. -/
def fetch (s : State) : Fetched :=
  if s.rst then .move (.next s.applyReset)
  else match s.codec with
    | q :: later => .run (decodeCodec q) { s with codec := later }
    | [] => fetchByPhase s

/-- INIT's place of a row; the third frame's for every row but the first two. -/
def slotOf : Instr → InitSlot
  | .queryRelayStatus => .relayStatus
  | .queryButtonMode => .buttonMode
  | _ => .timerDelay

/-- `s` with a port word where the next step takes its instruction from, and the sequencer in a phase
that takes it: IDLE (or CLOSED, if it is) for a command, a drain in progress for a buffer, INIT for one
of its frames (log 13). A received frame stands at the front of the receive queue and is read alone. -/
def State.present (pw : PortWord) (s : State) : State :=
  match pw with
  | .codec q => { s with rst := false, codec := q :: s.codec }
  | .cmd w =>
    let s := { s with rst := false, codec := [], cmds := w :: s.cmds }
    if s.phase = .closed then s
    else { s with phase := .idle, closed := false, initAt := .relayStatus }
  | .rx buf =>
    let s := { s with rst := false, codec := [], rxQueue := buf ++ s.rxQueue, rxAnswers := .full buf.length :: s.rxAnswers }
    if s.phase = .drain then s
    else { s with phase := .drain, closed := false, initAt := .relayStatus, cmdReg := cmdWord 0x6 }
  | .init frame =>
    let slot := match decodeInit frame with
      | .instr i => slotOf i
      | .reject _ => s.initAt
    { s with rst := false, codec := [], phase := .init, closed := false, initAt := slot }

/-- A word of the opcode table, presented: the instruction it decodes to where it is taken from; a word
that decodes to none as it stands, a 56-bit word in the receive queue and any other at the command port. -/
def State.presentTableWord (nbits w : Nat) (s : State) : State :=
  match decodeTableWord nbits w with
  | some i => s.present (encode i)
  | none =>
    if nbits = 56 then s.present (.rx (frameOfWord w)) else s.present (.cmd (cmdOfWord w))

end Sys2Proof.Machine
end

