-- ==== Sys2Proof/Machine/Step.lean ====
section
/-! DEFINITION. One step of the unit. -/

namespace Sys2Proof.Machine

/-- One step (R7): one host operation whole, one frame of INIT, one buffer of a drain in progress, one
use of the codec, a reset, or nothing when nothing is presented. -/
def step (s : State) : Host.Outcome State Fault Refusal :=
  match fetch s with
  | .run i t => exec i t
  | .move r => r

/-- `s` with a word of the opcode table where the next step takes its instruction from. -/
def State.withFetchWord (s : State) (nbits w : Nat) : State := s.presentTableWord nbits w

end Sys2Proof.Machine
end

