-- ==== Sys2Proof/Safety.lean ====
section
/-! DEFINITION. The words claims are made in: what a frame looks like on the wire, what one buffer does to
the mirror and to the diagnostics port, what a whole transaction leaves, and the invariants. They are
written from the spec's rules without the machine's sequencing, so that a claim compares two texts. -/

namespace Sys2Proof.Machine

/-! ## Frames -/

/-- A frame as R45 and R62 give it, the checksum in the 8-bit wrap-around form of R80. -/
def frameBytes (c m p q : Byte) : List Byte :=
  [0x04#8, c, m, p, q, 0 - (0x04#8 + c + m + p + q), 0x0F#8]

/-- The rows of the map of transmitted frames (R66): which masks and parameters each command byte has.
The mask of 0x42, the zero masks and the 0x44 row are the spec's D12, D13 and D14 (log 10). -/
def InCommandMap (c m p q : Byte) : Prop :=
  ((c = 0x11#8 ∨ c = 0x12#8 ∨ c = 0x14#8) ∧ (∃ id : Idx, m = 1#8 <<< id.val) ∧ p = 0 ∧ q = 0) ∨
  ((c = 0x41#8 ∨ c = 0x42#8) ∧ ∃ id : Idx, m = 1#8 <<< id.val) ∨
  (c = 0x21#8 ∧ m ||| p ||| q = 0xFF#8 ∧ m &&& p = 0 ∧ m &&& q = 0 ∧ p &&& q = 0) ∨
  ((c = 0x18#8 ∨ c = 0x22#8 ∨ c = 0x66#8 ∨ c = 0x70#8 ∨ c = 0x71#8) ∧ m = 0 ∧ p = 0 ∧ q = 0) ∨
  (c = 0x44#8 ∧ m = 0xFF#8 ∧ p = 0 ∧ q = 0)

/-! ## One receive buffer -/

/-- What a valid frame's handler makes of the mirror (R93 to R100). -/
def applyFrame (c m p q : Byte) (r : Mirror) : Mirror :=
  if c = 0x22#8 then h22 m p q r
  else if c = 0x44#8 then h44 m p q r
  else if c = 0x50#8 then h50 m p q r
  else if c = 0x51#8 then h51 m p q r
  else if c = 0x70#8 then h70 m p q r
  else if c = 0x71#8 then h71 m p q r
  else r

/-- What a buffer makes of the mirror: the handler's write if DECODE accepts it, else nothing (R50, R90). -/
def mirrorAfter (buf : List Byte) (r : Mirror) : Mirror :=
  match decodeFrame buf with
  | .ok c m p q => applyFrame c m p q r
  | .lengthError => r
  | .checksumError => r

/-- How many bytes an `RxRead(7)` takes, by the first of the answers; 7 where none is scheduled (R43). -/
def takenBy (answers : List RxAnswer) : Nat := min 7 (answers.headD (.full 7)).takes

/-- The buffer it returns of a receive queue `q`: the bytes it takes, or the first of them where it timed out
(R43). -/
def readBuffer (q : List Byte) (answers : List RxAnswer) : List Byte :=
  (q.take (takenBy answers)).take (answers.headD (.full 7)).gives

/-- The buffer the next `RxRead(7)` returns. -/
def State.nextRead (s : State) : List Byte := readBuffer s.rxQueue s.rxAnswers

/-- The state after that read: the bytes it took and the answer are used up. -/
def State.afterRead (s : State) : State :=
  { s with rxQueue := s.rxQueue.drop (takenBy s.rxAnswers), rxAnswers := s.rxAnswers.tail }

/-- The buffers in which `RxRead(7)` returns a receive queue `q` (R43, R48), one a read until the queue is
empty (R144). At most `fuel` of them. -/
def cutsUpTo : Nat → List Byte → List RxAnswer → List (List Byte)
  | 0, _, _ => []
  | fuel + 1, q, answers =>
    if q = [] then []
    else readBuffer q answers :: cutsUpTo fuel (q.drop (takenBy answers)) answers.tail

/-- All the buffers of a receive queue. Each takes a byte or uses up an answer, so the fuel is enough. -/
def cuts (q : List Byte) (answers : List RxAnswer) : List (List Byte) :=
  cutsUpTo (q.length + answers.length) q answers

/-- No read times out: each returns every byte it takes. -/
def NoTimeout (answers : List RxAnswer) : Prop := ∀ a ∈ answers, a.takes ≤ a.gives

/-- The buffers a drain in progress has still to read. -/
def State.queued (s : State) : List (List Byte) := cuts s.rxQueue s.rxAnswers

/-- The buffers the next settle and drain read: what waits, and what arrives in the settle (R143, R144). -/
def State.waiting (s : State) : List (List Byte) := cuts (s.rxQueue ++ s.nextArrival) s.rxAnswers

/-- Byte i of a buffer. -/
def byteAt (buf : List Byte) (i : Nat) : Byte := buf.getD i 0

/-- The diagnostics of a buffer, in order (R160, R168 (2)). -/
def diagsOf (buf : List Byte) : List Diag :=
  (if markerMismatch buf then [{ code := .markerWarn, info := byteAt buf 0 ++ byteAt buf 6 }] else []) ++
  match decodeFrame buf with
  | .ok c _ _ _ => if c ∈ responseCodes then [] else [{ code := .unknownCmd, info := c.setWidth 16 }]
  | .lengthError => [{ code := .length, info := BitVec.ofNat 16 (min buf.length 255) }]
  | .checksumError =>
    [{ code := .checksum
       info := byteAt buf 5 ++ (0 - (0x04#8 + byteAt buf 1 + byteAt buf 2 + byteAt buf 3 + byteAt buf 4)) }]

/-- The mirror after a drain (R53 (5)): the fold of its buffers, in arrival order. -/
def drainMirror (bufs : List (List Byte)) (r : Mirror) : Mirror :=
  bufs.foldl (fun r b => mirrorAfter b r) r

/-- The diagnostics of a drain, in arrival order (R53 (4), R162). -/
def drainDiags (bufs : List (List Byte)) : List Event :=
  (bufs.flatMap diagsOf).map .diag

/-! ## What the ports have carried since the last reset -/

/-- What an event puts on the TX port. -/
def txOf : Event → Option (List Byte × TxAnswer)
  | .tx f a => some (f, a)
  | .phase _ => none
  | .diag _ => none
  | .result _ _ => none
  | .closePulse => none
  | .codecOut _ => none

/-- What an event puts on the diagnostics port. -/
def diagOf : Event → Option Diag
  | .diag d => some d
  | .phase _ => none
  | .tx _ _ => none
  | .result _ _ => none
  | .closePulse => none
  | .codecOut _ => none

/-- What an event puts on the result port. -/
def resultOf : Event → Option (ResCode × ResData)
  | .result c d => some (c, d)
  | .phase _ => none
  | .tx _ _ => none
  | .diag _ => none
  | .closePulse => none
  | .codecOut _ => none

/-- The frames offered to `TxWrite`, with the answers, in order (R41, R53 (3)). -/
def sentFrames (s : State) : List (List Byte × TxAnswer) := s.trace.filterMap txOf

/-- The diagnostics stream (R162). -/
def diagnostics (s : State) : List Diag := s.trace.filterMap diagOf

/-- The result port (R161). -/
def results (s : State) : List (ResCode × ResData) := s.trace.filterMap resultOf

/-- The number of pulses on the close output (R149). -/
def closePulses (s : State) : Nat := s.trace.count .closePulse

/-- The marker warning of a received frame (R92). -/
def markerEvents (start stop : Byte) : List Event :=
  if start ≠ 0x04#8 ∨ stop ≠ 0x0F#8 then [Event.diag { code := .markerWarn, info := start ++ stop }] else []

/-! ## A whole transaction -/

/-- Nothing but the mirror, the sequencer, the transport's inputs and the outputs differs: what is
presented to the unit stays, nothing is closed. -/
def SameInputs (s t : State) : Prop :=
  t.closed = s.closed ∧ t.initAt = s.initAt ∧ t.rst = s.rst ∧ t.cmds = s.cmds ∧ t.codec = s.codec ∧
  closePulses t = closePulses s

/-- The receive side after a settle and a drain: the queue is empty (R54), the arrivals of that settle and the
answers to that drain's reads are used up. -/
def Drained (s t : State) : Prop :=
  t.rxQueue = [] ∧ t.arrivals = s.arrivals.tail ∧ t.rxAnswers = s.rxAnswers.drop s.waiting.length

/-- The receive side untouched (R142, R145). -/
def SameReceive (s t : State) : Prop :=
  t.rxQueue = s.rxQueue ∧ t.arrivals = s.arrivals ∧ t.rxAnswers = s.rxAnswers

/-- A transmitting operation, from IDLE to its result (R110, R142, R144). `frame` is the one frame it
offers, `r` the mirror after its local update, `data` the value it returns from the mirror as the drain
left it. On a write error nothing is drained and the receive queue stays (R142). -/
def Transacts (frame : List Byte) (r : Mirror) (data : Mirror → ResData) (s t : State) : Prop :=
  SameInputs s t ∧ t.phase = .idle ∧ t.txAnswers = s.txAnswers.tail ∧
  sentFrames t = sentFrames s ++ [(frame, s.nextAnswer)] ∧
  (s.nextAnswer = .ok →
    t.mirror = drainMirror s.waiting r ∧ Drained s t ∧
    diagnostics t = diagnostics s ++ s.waiting.flatMap diagsOf ∧
    results t = results s ++ [(.ok, data t.mirror)]) ∧
  (s.nextAnswer = .error →
    t.mirror = r ∧ SameReceive s t ∧ diagnostics t = diagnostics s ∧
    results t = results s ++ [(.errTransport, .none)])

/-- A validation failure (R130, R164): one error result; nothing changes, nothing is sent, nothing is drained. -/
def Rejects (code : ResCode) (s t : State) : Prop :=
  SameInputs s t ∧ t.phase = .idle ∧ t.txAnswers = s.txAnswers ∧ SameReceive s t ∧ t.mirror = s.mirror ∧
  sentFrames t = sentFrames s ∧ diagnostics t = diagnostics s ∧
  results t = results s ++ [(code, .none)]

/-- The same transaction with every record of the trace in its place (R140; the phase records and their
order are the model's, logs 6 and 24). `early` is what the UPDATE phase shows. -/
def afterTransaction (w : CmdWord) (frame : List Byte) (early : List Event) (r : Mirror)
    (data : Mirror → ResData) (s : State) : State :=
  match s.nextAnswer with
  | .ok =>
    { s with
      mirror := drainMirror s.waiting r, phase := .idle, cmdReg := w,
      txAnswers := s.txAnswers.tail, rxQueue := [], arrivals := s.arrivals.tail,
      rxAnswers := s.rxAnswers.drop s.waiting.length,
      trace := s.trace ++ [Event.phase .validate] ++ early ++
        [Event.phase .tx, Event.tx frame .ok, Event.phase .settle, Event.phase .drain] ++ drainDiags s.waiting ++
        [Event.phase .idle, Event.result .ok (data (drainMirror s.waiting r))] }
  | .error =>
    { s with
      mirror := r, phase := .idle, cmdReg := w, txAnswers := s.txAnswers.tail,
      trace := s.trace ++ [Event.phase .validate] ++ early ++
        [Event.phase .tx, Event.tx frame .error, Event.phase .idle, Event.result .errTransport .none] }

/-- The same rejection with every record of the trace in its place. -/
def afterRejection (w : CmdWord) (code : ResCode) (s : State) : State :=
  { s with cmdReg := w, trace := s.trace ++ [Event.phase .validate, Event.phase .idle, Event.result code .none] }

/-- One frame of INIT that the transport takes (R147): `later` is where the sequence stands next. -/
def afterInitFrame (frame : List Byte) (later : InitSlot) (s : State) : State :=
  { s with
    mirror := drainMirror s.waiting s.mirror, initAt := later,
    txAnswers := s.txAnswers.tail, rxQueue := [], arrivals := s.arrivals.tail,
    rxAnswers := s.rxAnswers.drop s.waiting.length,
    trace := s.trace ++ [Event.tx frame .ok] ++ drainDiags s.waiting }

/-- A frame of INIT that the transport refuses (R148). -/
def afterInitFailure (frame : List Byte) (s : State) : State :=
  { s with
    phase := .closed, closed := true, initAt := .relayStatus, txAnswers := s.txAnswers.tail,
    trace := s.trace ++ [Event.tx frame .error, Event.phase .closed, Event.result .errTransport .none] }

/-! ## Invariants -/

/-- The phases of an operation in progress (R23, R140). -/
def midOperation : Phase → Bool
  | .validate => true
  | .update => true
  | .tx => true
  | .settle => true
  | .drain => true
  | .idle => false
  | .init => false
  | .closed => false

/-- The sequencer is consistent: `closed` is 1 exactly in CLOSED (R24); the position inside INIT is the
first but during INIT; an operation in progress is one that has the phases of R140. -/
def SeqInv (s : State) : Prop :=
  (s.closed = true ↔ s.phase = .closed) ∧
  (s.phase ≠ .init → s.initAt = .relayStatus) ∧
  (midOperation s.phase = true → (currentPlan s).isSome = true)

/-- Every frame offered to the transport is one of the map (R62, R66, R72). -/
def SentInv (s : State) : Prop :=
  ∀ f a, Event.tx f a ∈ s.trace → ∃ c m p q, InCommandMap c m p q ∧ f = frameBytes c m p q

/-- Result codes 3 and 4 are never produced (R161, R117, R130). -/
def ResultInv (s : State) : Prop :=
  ∀ c d, Event.result c d ∈ s.trace → c ≠ .errValType ∧ c ≠ .errValBool

/-- The transport is closed at most once per reset, and never before CLOSE (R149). -/
def CloseInv (s : State) : Prop :=
  closePulses s ≤ 1 ∧ (s.phase ≠ .closed → closePulses s = 0)

end Sys2Proof.Machine
end

