-- ==== Sys2Proof/Certificates/Slice0/Obligations.lean ====
section
/-! DEFINITION. The statements for the provers, from the numbered rules of spec/. A statement that rests on
one of the spec's own decisions (D<n>) or on the model's log says so and is listed as derived. -/

open Sys2Proof Sys2Proof.Machine

/-! ## The step -/

/-- A step runs the instruction that stands where the unit takes it from: at the codec's ports, at the
command port, in the buffer a drain in progress reads next, or in INIT's sequence; with nothing at the port the
unit waits. (R73, R88, R141, R144, R147, R176; the order of the sources is the model's, logs 7 and 18.) -/
def Obligations.StepRunsThePresentedInstruction : Prop :=
  (∀ s q later, s.rst = false → s.codec = q :: later →
    step s = exec (decodeCodec q) { s with codec := later }) ∧
  (∀ s w later, s.rst = false → s.codec = [] → (s.phase = .idle ∨ s.phase = .closed) →
    s.cmds = w :: later → step s = exec (decodeCmd w) { s with cmds := later }) ∧
  (∀ s i, s.rst = false → s.codec = [] → s.phase = .drain → s.rxQueue ≠ [] →
    decodeRx s.nextRead = .instr i → step s = exec i s.afterRead) ∧
  (∀ s, s.rst = false → s.codec = [] → s.phase = .init → step s = exec (initInstr s.initAt) s) ∧
  (∀ s, s.rst = false → s.codec = [] → (s.phase = .idle ∨ s.phase = .closed) → s.cmds = [] →
    step s = .next s)

/-- An operation taken up by a step in the phase VALIDATE, just after its acceptance, ends as it does when
it is run in one step from IDLE. (R7, R140; logs 1 and 4.) -/
def Obligations.OperationTakenUpAfterAcceptance : Prop :=
  ∀ (s : State) (i : Instr) (w : CmdWord), s.rst = false → s.codec = [] → s.phase = .idle →
    encode i = .cmd w → i.WellFormed → (planOf i).isSome = true →
    step { s with cmdReg := w, phase := .validate, trace := s.trace ++ [Event.phase .validate] } = exec i s

/-- A drain run one buffer a step, and its end, leave what the drain of the one-step operation leaves. That
the drain ends rests on the environment's bytes and answers being finite lists. (R53 (4) and (5), R144;
the finite lists are R146's assumption, D22, log 20; logs 1 and 18.) -/
def Obligations.StepwiseDrainIsTheDrain : Prop :=
  ∀ (s : State) (p : Plan), s.rst = false → s.codec = [] → s.phase = .drain → currentPlan s = some p →
    Sys2Proof.core.run (s.queued.length + 1) s =
      .next ((drain s).endWith .ok (p.reply (drain s).mirror))

/-- In a drain in progress, while bytes wait, the next buffer of any content, of 0 to 7 bytes, changes the
mirror as its frame's handler says and emits its diagnostics, and nothing else but the receive queue
changes: the row's own meaning and RxProcess agree. (R90 to R92, R99, R144; log 18.) -/
def Obligations.BufferOfADrainIsProcessed : Prop :=
  ∀ s : State, s.rst = false → s.codec = [] → s.phase = .drain → s.rxQueue ≠ [] →
    step s = .next { s.afterRead with
      mirror := mirrorAfter s.nextRead s.mirror
      trace := s.trace ++ (diagsOf s.nextRead).map .diag }

/-! ## Encodings -/

/-- Words written out from the spec's encodings decode to the instructions they stand for. -/
def Obligations.OpcodeWordsDecode : Prop :=
  decodeTableWord 56 0x0411010000EA0F = some (.relayOn 0) ∧
  decodeTableWord 56 0x044108012C860F = some (.startTimer 3 (some 300)) ∧
  decodeTableWord 56 0x0418000000E40F = some .queryRelayStatus ∧
  decodeTableWord 56 0x0444FF0000B90F = some .initQueryTimerDelay ∧
  decodeTableWord 56 0x0451000500A60F = some (.rspRelayStatus 0x04#8 0x00#8 0x05#8 0x00#8 0x0F#8) ∧
  decodeTableWord 56 0x0452000000AA0F = some (.rspUnknown 0x04#8 0x52#8 0x00#8 0x00#8 0x00#8 0x0F#8) ∧
  decodeTableWord 56 0x0451000500A70F = none ∧
  decodeTableWord 8 0xD = some (.readRelay 0) ∧
  decodeTableWord 8 0xE = some (.readButton 0) ∧
  decodeTableWord 8 0xF = some .close

/-- Decoding an encoded well-formed instruction gives it back, for every row and every operand. (R60, R67,
R73, R88; the layout of the codec's inputs as constructors is the model's.) -/
def Obligations.DecodeInvertsEncode : Prop :=
  ∀ i : Instr, i.WellFormed → decode (encode i) = .instr i

/-- The frames of every row of the map of transmitted frames but 0x21 are read back as an operation that sends
them: no bit of relay, seconds or command is dropped. The frames of READ_FIRMWARE_VERSION and READ_JUMPER
are read as their queries QUERY_FIRMWARE and QUERY_JUMPER, and a START_TIMER with omitted seconds as one
with seconds 0; a 0x21 frame names no button and has no clause here. (R60, R65, R66, R75; the masks of 0x42
and of the zeroed frames and the 0x44 frame are D12, D13, D14, log 10; reading a frame back is the model's,
log 12.) -/
def Obligations.SentFramesNameTheirOperation : Prop :=
  (∀ id : Idx,
    decodeTx (frameBytes 0x11#8 (1#8 <<< id.val) 0 0) = some (.relayOn id) ∧
    decodeTx (frameBytes 0x12#8 (1#8 <<< id.val) 0 0) = some (.relayOff id) ∧
    decodeTx (frameBytes 0x14#8 (1#8 <<< id.val) 0 0) = some (.relayToggle id)) ∧
  (∀ (id : Idx) (p q : Byte),
    decodeTx (frameBytes 0x41#8 (1#8 <<< id.val) p q) =
      some (.startTimer id (some ((p.toNat * 256 + q.toNat : Nat) : Int))) ∧
    decodeTx (frameBytes 0x42#8 (1#8 <<< id.val) p q) =
      some (.setDelay id ((p.toNat * 256 + q.toNat : Nat) : Int))) ∧
  decodeTx (frameBytes 0x18#8 0 0 0) = some .queryRelayStatus ∧
  decodeTx (frameBytes 0x22#8 0 0 0) = some .queryButtonMode ∧
  decodeTx (frameBytes 0x70#8 0 0 0) = some .queryJumper ∧
  decodeTx (frameBytes 0x71#8 0 0 0) = some .queryFirmware ∧
  decodeTx (frameBytes 0x66#8 0 0 0) = some .factoryReset ∧
  decodeTx (frameBytes 0x44#8 0xFF#8 0 0) = some .initQueryTimerDelay

/-- Seconds are sent high byte first and a delay report puts them together again: big-endian, nothing
lost (R65). -/
def Obligations.SecondsAreBigEndian : Prop :=
  (∀ s : Int, 0 ≤ s → s ≤ 65535 →
    (secondsHigh s).toNat = s.toNat / 256 ∧ (secondsLow s).toNat = s.toNat % 256) ∧
  (∀ p q : Byte, (secondsOf p q).toNat = p.toNat * 256 + q.toNat)

/-! ## The codec -/

/-- CHECKSUM completes in every state with the two's-complement negation of the exact sum, truncated to
a byte, in all its equivalent forms, and touches nothing but the codec's output (R80). -/
def Obligations.ChecksumNegatesTheSum : Prop :=
  (∀ (c m p q : Byte) (s : State), ∃ k : Byte,
    exec (.checksum c m p q) s = .next { s with trace := s.trace ++ [Event.codecOut (.sum k)] } ∧
    k.toNat = (256 - (4 + c.toNat + m.toNat + p.toNat + q.toNat) % 256) % 256 ∧
    k = BitVec.ofInt 8 (-(4 + c.toNat + m.toNat + p.toNat + q.toNat : Int)) ∧
    k = 0 - (0x04#8 + c + m + p + q) ∧
    (∀ j : Byte, (4 + c.toNat + m.toNat + p.toNat + q.toNat + j.toNat) % 256 = 0 ↔ j = k)) ∧
  checksum 0x10#8 0x32#8 0x45#8 0x17#8 = 0x5E#8 ∧ checksum 0x14#8 0x4A#8 0xFF#8 0x7B#8 = 0x24#8 ∧
  checksum 0x00#8 0x00#8 0x00#8 0x00#8 = 0xFC#8 ∧ checksum 0xFF#8 0xFF#8 0xFF#8 0xFF#8 = 0x00#8

/-- ENCODE completes on any four bytes: the codec's output carries the start byte, the four bytes, their
checksum, the end byte, and nothing else changes (R81; how the output carries them is R88's, stated in
CodecPortForms). -/
def Obligations.EncodeBuildsTheFrame : Prop :=
  ∀ (c m p q : Byte) (s : State), ∃ w : FrameBits,
    exec (.encode c m p q) s = .next { s with trace := s.trace ++ [Event.codecOut (.frame w)] } ∧
    unpackFrame w = [0x04#8, c, m, p, q, 0 - (0x04#8 + c + m + p + q), 0x0F#8]

/-- DECODE completes on a buffer of any length: the length error, or, on seven bytes, the four payload
bytes if byte 5 is their checksum and the checksum error if not; the flag beside it is the marker
mismatch. It touches nothing but the codec's output. (R82 to R84, R86; the flag is R88's, D16; the buffer
stands at the validator's inputs as CodecPortForms says.) -/
def Obligations.DecodeAnswersByLengthThenChecksum : Prop :=
  (∀ (buf : List Byte) (s : State), buf.length ≠ 7 →
    exec (.decodeOf buf) s = .next { s with trace := s.trace ++ [Event.codecOut (.decoded .lengthError false)] }) ∧
  (∀ (b0 c m p q k b6 : Byte) (s : State),
    exec (.decodeOf [b0, c, m, p, q, k, b6]) s = .next { s with
      trace := s.trace ++ [Event.codecOut (.decoded
        (if k = 0 - (0x04#8 + c + m + p + q) then .ok c m p q else .checksumError)
        (decide (b0 ≠ 0x04#8 ∨ b6 ≠ 0x0F#8)))] })

/-- The laws of the codec: the round trip; every single-bit flip in bytes 1 to 5 of a valid frame is
detected; no change of bytes 0 and 6 is; changes that keep the sum of bytes 1 to 5 are not; exactly one
checksum byte is accepted. (R85 (a) to (f), of which (c) to (f) the spec derives.) -/
def Obligations.CodecLaws : Prop :=
  (∀ c m p q : Byte, decodeFrame (encodeFrame c m p q) = .ok c m p q) ∧
  (∀ (b0 c m p q k b6 : Byte) (j : Nat), j < 8 → decodeFrame [b0, c, m, p, q, k, b6] = .ok c m p q →
    decodeFrame [b0, c, m, p, q, k ^^^ 1#8 <<< j, b6] = .checksumError ∧
    decodeFrame [b0, c ^^^ 1#8 <<< j, m, p, q, k, b6] = .checksumError ∧
    decodeFrame [b0, c, m ^^^ 1#8 <<< j, p, q, k, b6] = .checksumError ∧
    decodeFrame [b0, c, m, p ^^^ 1#8 <<< j, q, k, b6] = .checksumError ∧
    decodeFrame [b0, c, m, p, q ^^^ 1#8 <<< j, k, b6] = .checksumError) ∧
  (∀ b0 c m p q k b6 b0' b6' : Byte,
    decodeFrame [b0', c, m, p, q, k, b6'] = decodeFrame [b0, c, m, p, q, k, b6]) ∧
  (∀ b0 c m p q k b6 c' m' p' q' k' : Byte,
    c + m + p + q + k = c' + m' + p' + q' + k' →
    (decodeFrame [b0, c, m, p, q, k, b6] = .ok c m p q ↔
      decodeFrame [b0, c', m', p', q', k', b6] = .ok c' m' p' q')) ∧
  (∀ b0 c m p q b6 : Byte, ∃ k : Byte, ∀ j : Byte,
    decodeFrame [b0, c, m, p, q, j, b6] = .ok c m p q ↔ j = k)

/-- The frame invariant: every frame a step offers to the transport has start 0x04, end 0x0F and the checksum
that negates the sum; a received buffer is accepted as a frame exactly when its length is 7 and its
checksum byte does, its start and end bytes being anything (R62). -/
def Obligations.FrameInvariant : Prop :=
  (∀ (s t : State) (f : List Byte) (a : TxAnswer), step s = .next t → (f, a) ∈ sentFrames t →
    (f, a) ∈ sentFrames s ∨
    ∃ c m p q : Byte, f = [0x04#8, c, m, p, q, 0 - (0x04#8 + c + m + p + q), 0x0F#8]) ∧
  (∀ (buf : List Byte) (c m p q : Byte),
    decodeFrame buf = .ok c m p q ↔
      ∃ b0 b6 : Byte, buf = [b0, c, m, p, q, 0 - (0x04#8 + c + m + p + q), b6])

/-- The acceptance test is a sum of five received bytes and the constant 0x04, never of byte 0 (R84, which
the spec derives from R80). -/
def Obligations.AcceptanceIsASumOfFiveBytes : Prop :=
  ∀ b0 c m p q k b6 : Byte,
    decodeFrame [b0, c, m, p, q, k, b6] = .ok c m p q ↔
      (4 + c.toNat + m.toNat + p.toNat + q.toNat + k.toNat) % 256 = 0

/-! ## The responses -/

/-- RSP_BUTTON_MODE completes in every state: lane i of `mode` by momentary over toggle over timed,
unchanged where no bit is set; no other register; no diagnostic of its own (R93). -/
def Obligations.ButtonModeReport : Prop :=
  ∀ (start m p q stop : Byte) (s : State), ∃ (b : Bank Button) (shown : List Event),
    exec (.rspButtonMode start m p q stop) s = .next { s with
      mirror := { s.mirror with buttons := b }, trace := s.trace ++ shown } ∧
    (start = 0x04#8 → stop = 0x0F#8 → shown = []) ∧
    ∀ i : Idx, b.get i = { s.mirror.buttons.get i with
      mode := if m.getLsbD i.val then .momentary else if p.getLsbD i.val then .toggle
        else if q.getLsbD i.val then .timed else (s.mirror.buttons.get i).mode }

/-- RSP_TIMER_DELAY completes in every state: the relays of the mask take param1:param2 seconds; no other
register; no diagnostic of its own (R94). -/
def Obligations.TimerDelayReport : Prop :=
  ∀ (start m p q stop : Byte) (s : State), ∃ (r : Bank Relay) (shown : List Event),
    exec (.rspTimerDelay start m p q stop) s = .next { s with
      mirror := { s.mirror with relays := r }, trace := s.trace ++ shown } ∧
    (start = 0x04#8 → stop = 0x0F#8 → shown = []) ∧
    ∀ i : Idx, r.get i = { s.mirror.relays.get i with
      delay := if m.getLsbD i.val then BitVec.ofNat 16 (p.toNat * 256 + q.toNat)
        else (s.mirror.relays.get i).delay }

/-- RSP_BUTTON_STATUS completes in every state: `pressed` of all eight from the mask; `action` PRESSED over
RELEASED, unchanged where neither bit is set; no other register; no diagnostic of its own (R95). -/
def Obligations.ButtonStatusReport : Prop :=
  ∀ (start m p q stop : Byte) (s : State), ∃ (b : Bank Button) (shown : List Event),
    exec (.rspButtonStatus start m p q stop) s = .next { s with
      mirror := { s.mirror with buttons := b }, trace := s.trace ++ shown } ∧
    (start = 0x04#8 → stop = 0x0F#8 → shown = []) ∧
    ∀ i : Idx, b.get i = { s.mirror.buttons.get i with
      pressed := m.getLsbD i.val
      action := if p.getLsbD i.val then .pressed else if q.getLsbD i.val then .released
        else (s.mirror.buttons.get i).action }

/-- RSP_RELAY_STATUS completes in every state: `status` from param1, `timer_active` from param2, all eight
overwritten; the mask is not used; no other register; no diagnostic of its own (R96). -/
def Obligations.RelayStatusReport : Prop :=
  ∀ (start m p q stop : Byte) (s : State), ∃ (r : Bank Relay) (shown : List Event),
    exec (.rspRelayStatus start m p q stop) s = .next { s with
      mirror := { s.mirror with relays := r }, trace := s.trace ++ shown } ∧
    (start = 0x04#8 → stop = 0x0F#8 → shown = []) ∧
    ∀ i : Idx, r.get i = { s.mirror.relays.get i with
      status := p.getLsbD i.val, timerActive := q.getLsbD i.val }

/-- What a response of the six recognised kinds shows is the marker warning and nothing else: none when both
markers are right, one record with the two bytes when either is wrong. (R92; D16.) -/
def Obligations.ReportsShowMarkerWarningsOnly : Prop :=
  ∀ (start m p q stop : Byte) (s : State) (i : Instr),
    i ∈ [Instr.rspButtonMode start m p q stop, Instr.rspTimerDelay start m p q stop,
      Instr.rspButtonStatus start m p q stop, Instr.rspRelayStatus start m p q stop,
      Instr.rspJumper start m p q stop, Instr.rspFirmware start m p q stop] →
    ∃ t, exec i s = .next t ∧ t.trace = s.trace ++ markerEvents start stop

/-- RSP_JUMPER and RSP_FIRMWARE complete in every state: the jumper is valid, and set exactly when param1
is not zero; the version is valid, its year and week param1 and param2, its string their decimals.
(R97, R98, R20; the valid bits are D8 and D9, log 8.) -/
def Obligations.JumperAndFirmwareReports : Prop :=
  ∀ (start m p q stop : Byte) (s : State),
    (exec (.rspJumper start m p q stop) s = .next { s with
      mirror := { s.mirror with jumper := some (decide (p ≠ 0)) }
      trace := s.trace ++ markerEvents start stop }) ∧
    (exec (.rspFirmware start m p q stop) s = .next { s with
      mirror := { s.mirror with fwver := some { year := p, week := q } }
      trace := s.trace ++ markerEvents start stop }) ∧
    fwString (some { year := p, week := q }) = toString (2000 + p.toNat) ++ "." ++ toString q.toNat

/-- A checksum-valid frame with a command byte that is none of the six is read as RSP_UNKNOWN, which
completes in every state: the diagnostic UNKNOWN_CMD with the command byte, after the marker warning if
there is one, and no other change. (R99, R165; the marker warning is D16, `diag_info` D17.) -/
def Obligations.UnknownResponseIsReportedAndDropped : Prop :=
  ∀ (start c m p q stop : Byte) (s : State),
    c ≠ 0x22#8 → c ≠ 0x44#8 → c ≠ 0x50#8 → c ≠ 0x51#8 → c ≠ 0x70#8 → c ≠ 0x71#8 →
    decodeRx [start, c, m, p, q, 0 - (0x04#8 + c + m + p + q), stop] =
      .instr (.rspUnknown start c m p q stop) ∧
    exec (.rspUnknown start c m p q stop) s = .next { s with
      trace := s.trace ++ markerEvents start stop ++
        [Event.diag { code := .unknownCmd, info := c.setWidth 16 }] }

/-- A read of fewer than 7 bytes, and a 7-byte buffer whose byte 5 is not the checksum of its bytes 1 to 4,
are discarded whole by a step of the drain: one diagnostic, LENGTH or CHECKSUM, with its info, after the
marker warning of the 7-byte buffer; no register changes. (R91, R92, R160; the order and the codes are
D16 and D17, the step log 18.) -/
def Obligations.RejectedBuffersChangeNoRegister : Prop :=
  (∀ s : State, s.rst = false → s.codec = [] → s.phase = .drain → s.rxQueue ≠ [] → s.nextRead.length ≠ 7 →
    step s = .next { s.afterRead with
      trace := s.trace ++ [Event.diag { code := .length, info := BitVec.ofNat 16 s.nextRead.length }] }) ∧
  (∀ (s : State) (b0 c m p q k b6 : Byte), s.rst = false → s.codec = [] → s.phase = .drain →
    s.nextRead = [b0, c, m, p, q, k, b6] → k ≠ 0 - (0x04#8 + c + m + p + q) →
    step s = .next { s.afterRead with
      trace := s.trace ++ markerEvents b0 b6 ++
        [Event.diag { code := .checksum, info := k ++ (0 - (0x04#8 + c + m + p + q)) }] })

/-- Rejected buffers do not matter to the operation that reads them: where the receive side gives its drain
the same buffers without the rejected ones, it ends with the same mirror, the same frames and the same
results. (R163; that one step is the whole operation is D3, log 1.) -/
def Obligations.FrameErrorsDoNotTouchTheOperation : Prop :=
  ∀ (w : CmdWord) (s t : State) (queue : List Byte) (arrivals : List (List Byte)) (answers : List RxAnswer),
    s.phase = .idle → exec (decodeCmd w) s = .next t →
    State.waiting { s with rxQueue := queue, arrivals := arrivals, rxAnswers := answers } =
      s.waiting.filter (fun b => decOk b) →
    ∃ t', exec (decodeCmd w)
        { s with rxQueue := queue, arrivals := arrivals, rxAnswers := answers } = .next t' ∧
      t'.mirror = t.mirror ∧ t'.phase = t.phase ∧ t'.closed = t.closed ∧
      sentFrames t' = sentFrames t ∧ results t' = results t

/-- One buffer yields at most one marker warning and after it at most one other diagnostic. (R168 (2), R160;
the order is D16, the codes D17.) -/
def Obligations.DiagnosticsOfOneBuffer : Prop :=
  ∀ (buf : List Byte) (s : State), ∃ ws es : List Diag,
    diagnostics (rxProcess buf s) = diagnostics s ++ ws ++ es ∧
    ws.length ≤ 1 ∧ es.length ≤ 1 ∧ (∀ d ∈ ws, d.code = .markerWarn) ∧ (∀ d ∈ es, d.code ≠ .markerWarn) ∧
    (buf.length ≠ 7 → ws = [] ∧ ∃ d, es = [d] ∧ d.code = .length)

/-- A report applied twice leaves the mirror as applied once. (R51, which the spec derives.) -/
def Obligations.ReportsAreIdempotent : Prop :=
  ∀ (buf : List Byte) (s : State),
    (rxProcess buf (rxProcess buf s)).mirror = (rxProcess buf s).mirror

/-- Lanes are independent: what a 0x22, 0x50 or 0x51 report makes of relay i and of button i depends on bit i
of its three bytes and on that entity alone; what a 0x44 report makes of them depends on bit i of its mask,
on the whole of param1 and param2, which are the delay itself (R94), and on that entity alone. (R101, which
the spec derives. Its wording, that lane i reads bit i of each of the three bytes, is departed from for
0x44: there it holds of the mask alone.) -/
def Obligations.LanesAreIndependent : Prop :=
  ∀ (c m p q m' p' q' k k' : Byte) (s t : State) (i : Idx),
    (c = 0x22#8 ∨ c = 0x50#8 ∨ c = 0x51#8 ∨ (c = 0x44#8 ∧ p = p' ∧ q = q')) →
    m.getLsbD i.val = m'.getLsbD i.val → p.getLsbD i.val = p'.getLsbD i.val →
    q.getLsbD i.val = q'.getLsbD i.val →
    k = checksum c m p q → k' = checksum c m' p' q' →
    s.mirror.relays.get i = t.mirror.relays.get i → s.mirror.buttons.get i = t.mirror.buttons.get i →
    (rxProcess [0x04#8, c, m, p, q, k, 0x0F#8] s).mirror.relays.get i =
        (rxProcess [0x04#8, c, m', p', q', k', 0x0F#8] t).mirror.relays.get i ∧
      (rxProcess [0x04#8, c, m, p, q, k, 0x0F#8] s).mirror.buttons.get i =
        (rxProcess [0x04#8, c, m', p', q', k', 0x0F#8] t).mirror.buttons.get i

/-- The echo of the unit's own frames: QUERY_JUMPER reads as "jumper not set", QUERY_FIRMWARE as "2000.0",
INIT's 0x44 as eight delays of 0, QUERY_BUTTON_MODE as no change, and every other frame the unit sends as
an unknown response that changes nothing. (R209, R68, which the spec derives.) -/
def Obligations.EchoOfSentFrames : Prop :=
  ∀ s : State,
    (rxProcess (frameBytes 0x70#8 0 0 0) s).mirror = { s.mirror with jumper := some false } ∧
    fwString (rxProcess (frameBytes 0x71#8 0 0 0) s).mirror.fwver = "2000.0" ∧
    (∀ i, (rxProcess (frameBytes 0x44#8 0xFF#8 0 0) s).mirror.relays.get i =
      { s.mirror.relays.get i with delay := 0 }) ∧
    rxProcess (frameBytes 0x22#8 0 0 0) s = s ∧
    (∀ c m p q, InCommandMap c m p q → c ≠ 0x22#8 → c ≠ 0x44#8 → c ≠ 0x70#8 → c ≠ 0x71#8 →
      rxProcess (frameBytes c m p q) s =
        { s with trace := s.trace ++ [Event.diag { code := .unknownCmd, info := c.setWidth 16 }] })

/-! ## The relay operations -/

/-- RELAY_ON, RELAY_OFF and RELAY_TOGGLE, from every IDLE state and for every relay, complete: one frame
0x11, 0x12 or 0x14 with the relay's one-bit mask and zero parameters, then the drain; the operation
itself writes nothing in the mirror; OK, or ERR_TRANSPORT if the write fails. (R111, R112, R113, R142; what
a write error leaves is D19.) -/
def Obligations.RelaySwitchOperations : Prop :=
  ∀ (id : Idx) (s : State), s.phase = .idle →
    (∃ t, exec (.relayOn id) s = .next t ∧
      Transacts (frameBytes 0x11#8 (1#8 <<< id.val) 0x00#8 0x00#8) s.mirror (fun _ => .none) s t) ∧
    (∃ t, exec (.relayOff id) s = .next t ∧
      Transacts (frameBytes 0x12#8 (1#8 <<< id.val) 0x00#8 0x00#8) s.mirror (fun _ => .none) s t) ∧
    (∃ t, exec (.relayToggle id) s = .next t ∧
      Transacts (frameBytes 0x14#8 (1#8 <<< id.val) 0x00#8 0x00#8) s.mirror (fun _ => .none) s t)

/-- START_TIMER, from every IDLE state, completes: the frame 0x41 with the seconds big-endian, 0 if they are
omitted, nothing written in the mirror; seconds given and outside 0 to 65535 give ERR_VAL_RANGE with
nothing sent. (R114, R115; the bounds are D10.) -/
def Obligations.StartTimerOperation : Prop :=
  ∀ (id : Idx) (s : State), s.phase = .idle →
    (∃ t, exec (.startTimer id none) s = .next t ∧
      Transacts (frameBytes 0x41#8 (1#8 <<< id.val) 0x00#8 0x00#8) s.mirror (fun _ => .none) s t) ∧
    (∀ n : Nat, n ≤ 65535 → ∃ t, exec (.startTimer id (some (n : Int))) s = .next t ∧
      Transacts (frameBytes 0x41#8 (1#8 <<< id.val) (BitVec.ofNat 8 (n / 256)) (BitVec.ofNat 8 n))
        s.mirror (fun _ => .none) s t) ∧
    (∀ v : Int, (v < 0 ∨ v > 65535) → ∃ t, exec (.startTimer id (some v)) s = .next t ∧
      Rejects .errValRange s t)

/-- SET_DELAY, from every IDLE state, completes: the relay's delay is written before the frame 0x42 is
sent, and stays when the write fails; a report read by the operation's own drain comes after it; seconds
outside 0 to 65535 give ERR_VAL_RANGE with nothing changed or sent. (R116; the mask is D12, the local
update on a write error D19; log 10.) -/
def Obligations.SetDelayOperation : Prop :=
  ∀ (id : Idx) (s : State), s.phase = .idle →
    (∀ n : Nat, n ≤ 65535 → ∃ (t : State) (r : Bank Relay),
      (∀ j : Idx, r.get j = if j = id then { s.mirror.relays.get id with delay := BitVec.ofNat 16 n }
        else s.mirror.relays.get j) ∧
      exec (.setDelay id (n : Int)) s = .next t ∧
      Transacts (frameBytes 0x42#8 (1#8 <<< id.val) (BitVec.ofNat 8 (n / 256)) (BitVec.ofNat 8 n))
        { s.mirror with relays := r } (fun _ => .none) s t) ∧
    (∀ v : Int, (v < 0 ∨ v > 65535) → ∃ t, exec (.setDelay id v) s = .next t ∧
      Rejects .errValRange s t)

/-! ## The button operation -/

/-- SET_BUTTON_MODE, from every IDLE state, completes: the button's mode is written, then one frame 0x21
carries the modes of all eight buttons as three masks, momentary, toggle, timed; the code 3 gives
ERR_VAL_MODE with nothing changed or sent. (R118, R119, R142; what a write error leaves is D19, the mode
codes D5.) -/
def Obligations.SetButtonModeOperation : Prop :=
  ∀ (id : Idx) (s : State), s.phase = .idle →
    (∀ (code : BitVec 2) (v : Mode), modeOfCode code = some v →
      ∃ (t : State) (b : Bank Button) (mm mt md : Byte),
        (∀ j : Idx, b.get j = if j = id then { s.mirror.buttons.get id with mode := v }
          else s.mirror.buttons.get j) ∧
        (∀ j : Idx, mm.getLsbD j.val = decide ((b.get j).mode = .momentary) ∧
          mt.getLsbD j.val = decide ((b.get j).mode = .toggle) ∧
          md.getLsbD j.val = decide ((b.get j).mode = .timed)) ∧
        exec (.setButtonMode id code) s = .next t ∧
        Transacts (frameBytes 0x21#8 mm mt md) { s.mirror with buttons := b } (fun _ => .none) s t) ∧
    (∃ t, exec (.setButtonMode id 3) s = .next t ∧ Rejects .errValMode s t) ∧
    modeOfCode 0 = some .momentary ∧ modeOfCode 1 = some .toggle ∧ modeOfCode 2 = some .timed

/-- The three mode masks of any button file are disjoint and cover all eight buttons, the frame they make
has checksum 0xDC, and the report that carries them changes no mode. (R119, which the spec derives.) -/
def Obligations.ModeMasksPartitionTheButtons : Prop :=
  ∀ m : Mirror,
    modeMask m .momentary &&& modeMask m .toggle = 0 ∧ modeMask m .momentary &&& modeMask m .timed = 0 ∧
    modeMask m .toggle &&& modeMask m .timed = 0 ∧
    modeMask m .momentary ||| modeMask m .toggle ||| modeMask m .timed = 0xFF#8 ∧
    checksum 0x21#8 (modeMask m .momentary) (modeMask m .toggle) (modeMask m .timed) = 0xDC#8 ∧
    h22 (modeMask m .momentary) (modeMask m .toggle) (modeMask m .timed) m = m

/-! ## Queries, factory reset, reads -/

/-- The four queries and FACTORY_RESET, from every IDLE state, complete: one frame with all three bytes
after the command zero, then the drain; nothing is written or reset locally. (R120 to R124; the zero mask
is D13, log 10.) -/
def Obligations.QueriesAndFactoryReset : Prop :=
  ∀ s : State, s.phase = .idle →
    (∃ t, exec .queryRelayStatus s = .next t ∧
      Transacts (frameBytes 0x18#8 0x00#8 0x00#8 0x00#8) s.mirror (fun _ => .none) s t) ∧
    (∃ t, exec .queryButtonMode s = .next t ∧
      Transacts (frameBytes 0x22#8 0x00#8 0x00#8 0x00#8) s.mirror (fun _ => .none) s t) ∧
    (∃ t, exec .queryJumper s = .next t ∧
      Transacts (frameBytes 0x70#8 0x00#8 0x00#8 0x00#8) s.mirror (fun _ => .none) s t) ∧
    (∃ t, exec .queryFirmware s = .next t ∧
      Transacts (frameBytes 0x71#8 0x00#8 0x00#8 0x00#8) s.mirror (fun _ => .none) s t) ∧
    (∃ t, exec .factoryReset s = .next t ∧
      Transacts (frameBytes 0x66#8 0x00#8 0x00#8 0x00#8) s.mirror (fun _ => .none) s t)

/-- READ_FIRMWARE_VERSION and READ_JUMPER, from every IDLE state, complete: the frame of the query, the
drain, then the register as the drain left it: the version or "Unknown", SET, NOT_SET or UNKNOWN.
(R126, R127; UNKNOWN is D9, the zero mask D13.) -/
def Obligations.PropertyReads : Prop :=
  (∀ s : State, s.phase = .idle →
    (∃ t, exec .readFirmwareVersion s = .next t ∧
      Transacts (frameBytes 0x71#8 0x00#8 0x00#8 0x00#8) s.mirror (fun m => .firmware m.fwver) s t) ∧
    (∃ t, exec .readJumper s = .next t ∧
      Transacts (frameBytes 0x70#8 0x00#8 0x00#8 0x00#8) s.mirror
        (fun m => .jumper (match m.jumper with | none => .unknown | some true => .set | some false => .notSet))
        s t)) ∧
  fwString none = "Unknown"

/-- READ_RELAY and READ_BUTTON, from every IDLE state, complete: one result with the entry's fields and no
other change, nothing sent, nothing drained. (R128, R129, which the spec derives.) -/
def Obligations.PureReads : Prop :=
  ∀ (id : Idx) (s : State), s.phase = .idle →
    exec (.readRelay id) s = .next { s with trace := s.trace ++ [Event.result .ok (.relay
      (s.mirror.relays.get id).delay (s.mirror.relays.get id).timerActive (s.mirror.relays.get id).status)] } ∧
    exec (.readButton id) s = .next { s with trace := s.trace ++ [Event.result .ok (.button
      (s.mirror.buttons.get id).mode (s.mirror.buttons.get id).pressed (s.mirror.buttons.get id).action)] }

/-- Validation failures, complete: on a command accepted in IDLE the last result is ERR_VAL_MODE exactly for
SET_BUTTON_MODE with mode code 3, and ERR_VAL_RANGE exactly for SET_DELAY and START_TIMER with seconds
outside 0 to 65535; then nothing was sent, drained or changed (R130). -/
def Obligations.ValidationFailuresComplete : Prop :=
  ∀ (w : CmdWord) (s : State), s.phase = .idle → ∃ (t : State) (code : ResCode) (data : ResData),
    exec (decodeCmd w) s = .next t ∧ results t = results s ++ [(code, data)] ∧
    (code = .errValMode ↔ ∃ id, decodeCmd w = .setButtonMode id 3) ∧
    (code = .errValRange ↔ ∃ (id : Idx) (v : Int), (v < 0 ∨ v > 65535) ∧
      (decodeCmd w = .setDelay id v ∨ decodeCmd w = .startTimer id (some v))) ∧
    (code = .errValMode ∨ code = .errValRange → Rejects code s t)

/-- `status` and `timer_active` of a relay change in a host operation only if its drain reads a valid 0x51
frame. (R13, which the spec derives.) -/
def Obligations.RelayStatusOnlyByReport : Prop :=
  ∀ (w : CmdWord) (s t : State) (i : Idx), s.phase = .idle → exec (decodeCmd w) s = .next t →
    (∀ b ∈ s.waiting, ∀ m p q, decodeFrame b ≠ .ok 0x51#8 m p q) →
    (t.mirror.relays.get i).status = (s.mirror.relays.get i).status ∧
    (t.mirror.relays.get i).timerActive = (s.mirror.relays.get i).timerActive

/-! ## The sequencer -/

/-- The phases and records of a transmitting operation, in order. (R140, R142, R144: VALIDATE, UPDATE for
the two operations that have one, TX with the frame, SETTLE, DRAIN with its diagnostics, IDLE with the
result; the phase codes are D4 and the records the model's, logs 6 and 24.) -/
def Obligations.PhasesOfATransaction : Prop :=
  ∀ (i : Instr) (w : CmdWord) (p : Plan) (s : State), s.phase = .idle → encode i = .cmd w →
    planOf i = some p →
    (p.check = none → exec i s = .next (afterTransaction w
      (frameBytes (p.payload ((p.update.getD id) s.mirror)).command
        (p.payload ((p.update.getD id) s.mirror)).mask (p.payload ((p.update.getD id) s.mirror)).p1
        (p.payload ((p.update.getD id) s.mirror)).p2)
      (if p.update.isSome then [Event.phase .update] else []) ((p.update.getD id) s.mirror) p.reply s)) ∧
    (∀ e, p.check = some e → exec i s = .next (afterRejection w e s))

/-- A command presented while an operation is in progress is not executed, not dropped and not queued: its
meaning changes nothing, and no step of a busy unit takes it from the port. (R141; D21, log 16.) -/
def Obligations.CommandsWaitWhileBusy : Prop :=
  (∀ (w : CmdWord) (s : State), busy s = true → s.phase ≠ .init → exec (decodeCmd w) s = .next s) ∧
  (∀ s t : State, busy s = true → step s = .next t → t.cmds = s.cmds)

/-- CLOSE: from IDLE one close pulse, `closed` 1, CLOSED, OK; when CLOSED it answers OK with no pulse.
(R149; D20, log 24; that it also does so when INIT's failure made the unit CLOSED is the model's, log 31.) -/
def Obligations.CloseOperation : Prop :=
  (∀ s : State, s.phase = .idle →
    exec .close s = .next { s with
      closed := true, phase := .closed
      trace := s.trace ++ [Event.closePulse, Event.phase .closed, Event.result .ok .none] }) ∧
  (∀ s : State, s.phase = .closed →
    exec .close s = .next { s with trace := s.trace ++ [Event.result .ok .none] })

/-- After CLOSE every other host operation is refused, and only reset leaves CLOSED. (R150; D20, log 15.) -/
def Obligations.RefusedAfterClose : Prop :=
  (∀ (w : CmdWord) (s : State), s.phase = .closed → decodeCmd w ≠ .close →
    exec (decodeCmd w) s = .refused .afterClose) ∧
  (∀ s t : State, s.phase = .closed → s.rst = false → step s = .next t → t.phase = .closed)

/-- INIT: its three frames in order, each with its own drain, then IDLE; phase INIT throughout and no
result. (R147; the third frame is D14; log 10.) The third is the meaning of INIT_QUERY_TIMER_DELAY. -/
def Obligations.StartUpSequence : Prop :=
  (∀ s : State, s.phase = .init → s.nextAnswer = .ok →
    (s.initAt = .relayStatus → exec .queryRelayStatus s =
      .next (afterInitFrame (frameBytes 0x18#8 0x00#8 0x00#8 0x00#8) .buttonMode s)) ∧
    (s.initAt = .buttonMode → exec .queryButtonMode s =
      .next (afterInitFrame (frameBytes 0x22#8 0x00#8 0x00#8 0x00#8) .timerDelay s)) ∧
    (s.initAt = .timerDelay → exec .initQueryTimerDelay s = .next
      { afterInitFrame (frameBytes 0x44#8 0xFF#8 0x00#8 0x00#8) .relayStatus s with
        phase := .idle
        trace := (afterInitFrame (frameBytes 0x44#8 0xFF#8 0x00#8 0x00#8) .relayStatus s).trace ++ [Event.phase .idle] })) ∧
  (∀ (s : State) (a1 a2 a3 : List Byte) (later d1 d2 d3 : List (List Byte)) (answers : List TxAnswer),
    s.rst = false → s.codec = [] → s.phase = .init → s.initAt = .relayStatus →
    s.arrivals = a1 :: a2 :: a3 :: later → s.txAnswers = .ok :: .ok :: .ok :: answers →
    d1 = cuts (s.rxQueue ++ a1) s.rxAnswers → d2 = cuts a2 (s.rxAnswers.drop d1.length) →
    d3 = cuts a3 (s.rxAnswers.drop (d1.length + d2.length)) →
    Sys2Proof.core.run 3 s = .next { s with
      mirror := drainMirror (d1 ++ d2 ++ d3) s.mirror, phase := .idle
      rxQueue := [], arrivals := later, txAnswers := answers
      rxAnswers := s.rxAnswers.drop (d1.length + d2.length + d3.length)
      trace := s.trace ++
        [Event.tx [0x04#8, 0x18#8, 0x00#8, 0x00#8, 0x00#8, 0xE4#8, 0x0F#8] .ok] ++ drainDiags d1 ++
        [Event.tx [0x04#8, 0x22#8, 0x00#8, 0x00#8, 0x00#8, 0xDA#8, 0x0F#8] .ok] ++ drainDiags d2 ++
        [Event.tx [0x04#8, 0x44#8, 0xFF#8, 0x00#8, 0x00#8, 0xB9#8, 0x0F#8] .ok] ++ drainDiags d3 ++ [Event.phase .idle] })

/-- A write error in INIT: no later frame is sent, CLOSED, `closed` 1, ERR_TRANSPORT once, no close pulse.
(R148; D19, D20.) -/
def Obligations.StartUpFailure : Prop :=
  ∀ s : State, s.rst = false → s.codec = [] → s.phase = .init → s.nextAnswer = .error →
    step s = .next (afterInitFailure
      (match s.initAt with
        | .relayStatus => frameBytes 0x18#8 0x00#8 0x00#8 0x00#8
        | .buttonMode => frameBytes 0x22#8 0x00#8 0x00#8 0x00#8
        | .timerDelay => frameBytes 0x44#8 0xFF#8 0x00#8 0x00#8) s)

/-- INIT_QUERY_TIMER_DELAY outside its place in INIT stops by name: the frame is sent by the start-up
sequence only. (R66, R147; D23, log 17.) -/
def Obligations.TimerDelayQueryOutsideInit : Prop :=
  ∀ s : State, ¬ (s.phase = .init ∧ s.initAt = .timerDelay) →
    exec .initQueryTimerDelay s = .refused .outsideInit

/-! ## Reset -/

/-- What reset leaves in the registers. (R28, R190: delays 5 and modes TOGGLE are the source's; the other
entries are D7, D8, D9; logs 8 and 9.) -/
def Obligations.ResetValues : Prop :=
  (∀ i : Idx, State.reset.mirror.relays.get i = { delay := 5, timerActive := false, status := false } ∧
    State.reset.mirror.buttons.get i = { mode := .toggle, pressed := false, action := .inactive } ∧
    relayIdent i = BitVec.ofNat 8 i.val ∧ buttonIdent i = BitVec.ofNat 8 i.val) ∧
  fwString State.reset.mirror.fwver = "Unknown" ∧ jumperValue State.reset.mirror.jumper = .unknown ∧
  State.reset.phase = .init ∧ State.reset.closed = false

/-- Reset in any phase: every register takes its reset value, the operation in progress is abandoned with
no result and nothing sent, the receive queue is not flushed. (R190, R192; D2, logs 6 and 7.) -/
def Obligations.ResetInAnyPhase : Prop :=
  ∀ s : State, s.rst = true → ∃ t, step s = .next t ∧
    t.mirror = State.reset.mirror ∧ t.phase = .init ∧ t.closed = false ∧ t.initAt = .relayStatus ∧
    t.rst = false ∧ SameReceive s t ∧ t.txAnswers = s.txAnswers ∧ t.cmds = s.cmds ∧
    sentFrames t = [] ∧ results t = [] ∧ diagnostics t = [] ∧ closePulses t = 0

/-! ## Invariants and whole-machine rules -/

/-- Every step keeps the sequencer consistent: `closed` is 1 exactly in CLOSED, the place inside INIT is the
first outside it, an operation in progress has the phases of R140. (R24, R23, R140; logs 4 and 5.) -/
def Obligations.SequencerInvariantIsKept : Prop :=
  ∀ s t : State, SeqInv s → step s = .next t → SeqInv t

/-- Every step keeps this: each frame offered to the transport since reset is one of the map of transmitted
frames, with start 0x04, end 0x0F and the checksum that negates the sum. (R62, R66, R72; the masks that
are D12, D13, D14: log 10.) -/
def Obligations.SentFramesInvariantIsKept : Prop :=
  ∀ s t : State, SentInv s → step s = .next t → SentInv t

/-- Every step keeps this: the transport is closed at most once since reset, and not before the unit is
CLOSED. (R149; D20.) -/
def Obligations.CloseOnceInvariantIsKept : Prop :=
  ∀ s t : State, CloseInv s → step s = .next t → CloseInv t

/-- Every step keeps this: the result codes of "non-integer input" and "bad boolean" are never produced.
(R117, R130, R161; D11, D17.) -/
def Obligations.UnusedResultsInvariantIsKept : Prop :=
  ∀ s t : State, ResultInv s → step s = .next t → ResultInv t

/-- The invariants hold at reset. -/
def Obligations.InvariantsHoldAtReset : Prop :=
  SeqInv State.reset ∧ SentInv State.reset ∧ CloseInv State.reset ∧ ResultInv State.reset

/-- No operation and no response writes INACTIVE: if a step other than a reset leaves a button's action
INACTIVE, it was INACTIVE before. (R19, which the spec derives.) -/
def Obligations.ActionNeverReturnsToInactive : Prop :=
  ∀ (s t : State) (i : Idx), s.rst = false → step s = .next t →
    (t.mirror.buttons.get i).action = .inactive → (s.mirror.buttons.get i).action = .inactive

/-- No step but a reset clears `fw_valid` or `jp_valid`. (R20, R21; D8, D9, log 8.) -/
def Obligations.ValidBitsStaySet : Prop :=
  ∀ s t : State, s.rst = false → step s = .next t →
    (fwValid s.mirror = true → fwValid t.mirror = true) ∧
    (jpValid s.mirror = true → jpValid t.mirror = true)

/-- From IDLE a step that is no transmitting operation (nothing presented, a pure read, CLOSE, the codec)
leaves the mirror and the receive queue alone and sends nothing. (R145; D18, D32.) -/
def Obligations.MirrorIsStableWhileIdle : Prop :=
  ∀ s t : State, s.phase = .idle → s.rst = false → step s = .next t →
    (s.codec ≠ [] ∨ s.cmds = [] ∨ ∃ w later, s.cmds = w :: later ∧ planOf (decodeCmd w) = none) →
    t.mirror = s.mirror ∧ SameReceive s t ∧ t.txAnswers = s.txAnswers ∧ sentFrames t = sentFrames s

/-- A step of a consistent unit stops only on a command other than CLOSE presented after CLOSE. (R150,
R169, R170; logs 15, 17, 25.) -/
def Obligations.StepStopsOnlyAfterClose : Prop :=
  ∀ s : State, SeqInv s →
    (∃ t, step s = .next t) ∨
    (step s = .refused .afterClose ∧ s.phase = .closed ∧
      ∃ w later, s.cmds = w :: later ∧ decodeCmd w ≠ .close)

/-! ## Operations taken up in a later phase, and the receive queue -/

/-- An operation whose check passes, taken up by a step in UPDATE (the two that have one), in TX or in SETTLE,
just as its one-step form enters that phase, ends as the one-step form does; taken up at the head of DRAIN
it does so in as many steps as there are buffers, and one more. (R7, R140, R142, R144; logs 1, 4, 18; the
finite drain is D22, log 20.) -/
def Obligations.OperationTakenUpInLaterPhases : Prop :=
  ∀ (s : State) (i : Instr) (w : CmdWord) (p : Plan) (r : Mirror) (shown : List Event) (frame : List Byte),
    s.rst = false → s.codec = [] → s.phase = .idle → encode i = .cmd w → i.WellFormed →
    planOf i = some p → p.check = none → r = (p.update.getD id) s.mirror →
    shown = s.trace ++ [Event.phase .validate] ++ (if p.update.isSome then [Event.phase .update] else []) →
    frame = frameBytes (p.payload r).command (p.payload r).mask (p.payload r).p1 (p.payload r).p2 →
    (p.update.isSome = true → step { s with cmdReg := w, phase := .update, trace := shown } = exec i s) ∧
    step { s with cmdReg := w, mirror := r, phase := .tx, trace := shown ++ [Event.phase .tx] } = exec i s ∧
    (s.nextAnswer = .ok →
      step { s with
        cmdReg := w, mirror := r, phase := .settle, txAnswers := s.txAnswers.tail
        trace := shown ++ [Event.phase .tx, Event.tx frame .ok, Event.phase .settle] } = exec i s ∧
      Sys2Proof.core.run (s.waiting.length + 1) { s with
        cmdReg := w, mirror := r, phase := .drain, txAnswers := s.txAnswers.tail
        rxQueue := s.rxQueue ++ s.nextArrival, arrivals := s.arrivals.tail
        trace := shown ++
          [Event.phase .tx, Event.tx frame .ok, Event.phase .settle, Event.phase .drain] } = exec i s)

/-- The two receive calls of the transport: RxAvail answers the number of bytes waiting; RxRead(n) takes at
most n of them from the front, returns these or, where it times out, the first of them, in arrival order,
and leaves the others waiting. Nothing else changes but the list of answers; with none scheduled the read
is a full one. (R42, R43; D15; the list is the model's, log 2, the bytes a timeout loses log 3.) -/
def Obligations.ReceiveCallsOfTheTransport : Prop :=
  ∀ (n : Nat) (s : State), rxAvail s = s.rxQueue.length ∧ ∃ (buf lost rest : List Byte),
    rxRead n s = (buf, { s with rxQueue := rest, rxAnswers := s.rxAnswers.tail }) ∧
    buf ++ lost ++ rest = s.rxQueue ∧ buf.length + lost.length ≤ n ∧
    (NoTimeout s.rxAnswers → lost = []) ∧
    (s.rxAnswers = [] → buf.length = min n s.rxQueue.length)

/-- A settle and a drain read the receive queue, what waited and what arrived, to its end, in arrival order and
cut by count: no buffer has more than 7 bytes, no byte is doubled or reordered, and no byte is left waiting.
Where no read times out none is lost either and the drain does not end on an empty read; with no answer
scheduled only the last buffer has fewer than 7 bytes. (R48, R50, R54, R144; D15; arrival in the settle
R143; logs 2 and 3; the finite lists log 20.) -/
def Obligations.DrainReadsTheQueueInOrder : Prop :=
  ∀ s : State, s.waiting.flatten.Sublist (s.rxQueue ++ s.nextArrival) ∧
    (∀ b ∈ s.waiting, b.length ≤ 7) ∧
    (NoTimeout s.rxAnswers → s.waiting.flatten = s.rxQueue ++ s.nextArrival ∧
      ∀ b, s.waiting.getLast? = some b → b ≠ []) ∧
    (s.rxAnswers = [] → ∀ b ∈ s.waiting.dropLast, b.length = 7) ∧
    rxAvail (drain (settle s)) = 0 ∧
    (drain (settle s)).mirror = drainMirror s.waiting s.mirror ∧
    diagnostics (drain (settle s)) = diagnostics s ++ s.waiting.flatMap diagsOf

/-- The environment can hand a drain every finite list of buffers of 0 to 7 bytes, an empty last one
included: for each list there are bytes that arrive in the settle and answers to the reads with which the
settle and the drain do RxProcess of the buffers of the list, in order, and nothing else to the mirror and
the diagnostics. (R144, U8, U9; D15; how the environment does it is the model's, logs 2 and 3; that the
list is finite is D22, log 20.) -/
def Obligations.EveryBufferListCanBeDrained : Prop :=
  ∀ (s : State) (bufs : List (List Byte)), (∀ b ∈ bufs, b.length ≤ 7) →
    ∃ (bytes : List Byte) (answers : List RxAnswer) (t : State),
      t = { s with rxQueue := [], arrivals := [bytes], rxAnswers := answers } ∧ t.waiting = bufs ∧
      (drain (settle t)).mirror = (bufs.foldl (fun u b => rxProcess b u) s).mirror ∧
      diagnostics (drain (settle t)) = diagnostics (bufs.foldl (fun u b => rxProcess b u) s)

/-! ## The codec's ports -/

/-- The forms of the codec's ports. ENCODE's output is 56 bits with byte 0 in bits 55:48; DECODE takes a byte
count and 56 bits in the same order, answers the length error whatever the bits where the count is not 7,
and else by those bits; a byte sequence stands there as its count with byte i, of those it has, in bits 55 -
8i to 48 - 8i; exactly one of the validator's three flags is 1. (R88; D1; log 32.) -/
def Obligations.CodecPortForms : Prop :=
  (∀ (c m p q : Byte) (s : State), ∃ w : BitVec 56,
    exec (.encode c m p q) s = .next { s with trace := s.trace ++ [Event.codecOut (.frame w)] } ∧
    w.extractLsb' 48 8 = 0x04#8 ∧ w.extractLsb' 40 8 = c ∧ w.extractLsb' 32 8 = m ∧ w.extractLsb' 24 8 = p ∧
    w.extractLsb' 16 8 = q ∧ w.extractLsb' 8 8 = 0 - (0x04#8 + c + m + p + q) ∧ w.extractLsb' 0 8 = 0x0F#8) ∧
  (∀ (len : Nat) (w : BitVec 56) (s : State), len ≠ 7 →
    exec (.decode { len := len, bits := w }) s = .next { s with
      trace := s.trace ++ [Event.codecOut (.decoded .lengthError false)] }) ∧
  (∀ (w : BitVec 56) (c m p q : Byte) (s : State), c = w.extractLsb' 40 8 → m = w.extractLsb' 32 8 →
    p = w.extractLsb' 24 8 → q = w.extractLsb' 16 8 →
    exec (.decode { len := 7, bits := w }) s = .next { s with
      trace := s.trace ++ [Event.codecOut (.decoded
        (if w.extractLsb' 8 8 = 0 - (0x04#8 + c + m + p + q) then .ok c m p q else .checksumError)
        (decide (w.extractLsb' 48 8 ≠ 0x04#8 ∨ w.extractLsb' 0 8 ≠ 0x0F#8)))] }) ∧
  (∀ buf : List Byte, ∃ w : BitVec 56, Instr.decodeOf buf = .decode { len := buf.length, bits := w } ∧
    ∀ i : Nat, i < 7 → i < buf.length → w.extractLsb' (48 - 8 * i) 8 = buf.getD i 0) ∧
  (∀ buf : List Byte, (decOk buf, decLenErr buf, decSumErr buf) ∈
    [(true, false, false), (false, true, false), (false, false, true)])
end

