-- ==== Sys2Proof/Laws/Bank.lean ====
section
/-! SUPPORT. The laws of an eight-entry register file. -/

namespace Sys2Proof.Machine.Bank

@[simp] theorem get_ofFn {α : Type} (f : Idx → α) (i : Idx) : (ofFn f).get i = f i := by
  fin_cases i <;> rfl

theorem ext_get {α : Type} {a b : Bank α} (h : ∀ i, a.get i = b.get i) : a = b := by
  cases a; cases b
  have h0 := h 0; have h1 := h 1; have h2 := h 2; have h3 := h 3
  have h4 := h 4; have h5 := h 5; have h6 := h 6; have h7 := h 7
  simp only [get] at h0 h1 h2 h3 h4 h5 h6 h7
  simp [h0, h1, h2, h3, h4, h5, h6, h7]

@[simp] theorem get_replicate {α : Type} (v : α) (i : Idx) : (replicate v).get i = v := by
  simp [replicate]

/-- Read after write: the entry written, and every other entry as it was. -/
@[simp] theorem get_set {α : Type} (b : Bank α) (i j : Idx) (v : α) :
    (b.set i v).get j = if j = i then v else b.get j := by
  simp [set]

@[simp] theorem ofFn_get {α : Type} (b : Bank α) : ofFn b.get = b := ext_get (by simp)

end Sys2Proof.Machine.Bank
end

