-- ==== Sys2Proof/Laws/Codec.lean ====
section
/-! SUPPORT. The codec: the wrap-around form of the checksum, and what DECODE can answer. -/

namespace Sys2Proof.Machine

/-- R80's equivalent form in 8-bit wrap-around arithmetic. -/
theorem checksum_eq_neg (c m p q : Byte) : checksum c m p q = 0 - (0x04#8 + c + m + p + q) := by
  have h : ~~~(frameSum c m p q : Int) + 1 = -(frameSum c m p q : Int) := by
    show Int.not _ + 1 = _
    cases frameSum c m p q with
    | zero => simp [Int.not]
    | succ n => simp [Int.not]; omega
  rw [checksum, h, BitVec.ofInt_neg, BitVec.ofInt_natCast]
  simp [frameSum, Config.stx, BitVec.ofNat_add]

/-- A frame the unit builds, in the words of claims. -/
theorem encodeFrame_eq (c m p q : Byte) : encodeFrame c m p q = frameBytes c m p q := by
  simp [encodeFrame, frameBytes, checksum_eq_neg, Config.stx, Config.etx]

/-- DECODE on seven bytes: the checksum alone decides. -/
theorem decodeFrame_seven (b0 c m p q k b6 : Byte) :
    decodeFrame [b0, c, m, p, q, k, b6] = if k = checksum c m p q then .ok c m p q else .checksumError :=
  rfl

/-- DECODE on any other length. -/
theorem decodeFrame_length {buf : List Byte} (h : buf.length ≠ 7) : decodeFrame buf = .lengthError := by
  unfold decodeFrame
  split
  · simp at h
  · rfl

/-- A buffer is seven bytes or of another length. -/
theorem seven_or_not (buf : List Byte) :
    (∃ b0 c m p q k b6, buf = [b0, c, m, p, q, k, b6]) ∨ buf.length ≠ 7 := by
  match buf with
  | [b0, c, m, p, q, k, b6] => exact .inl ⟨b0, c, m, p, q, k, b6, rfl⟩
  | [] | [_] | [_, _] | [_, _, _] | [_, _, _, _] | [_, _, _, _, _] | [_, _, _, _, _, _] => simp
  | _ :: _ :: _ :: _ :: _ :: _ :: _ :: _ :: _ => right; simp

/-- The marker flag looks at seven-byte buffers only. -/
theorem markerMismatch_length {buf : List Byte} (h : buf.length ≠ 7) : markerMismatch buf = false := by
  unfold markerMismatch
  split
  · simp at h
  · rfl

/-- The receive decoder on any other length. -/
theorem decodeRx_length {buf : List Byte} (h : buf.length ≠ 7) :
    decodeRx buf = .reject (.rxLength buf.length) := by
  unfold decodeRx
  split
  · simp at h
  · rfl

/-! ## The port forms -/

/-- The bits of seven bytes put together: byte j stands in bits 55 - 8j down to 48 - 8j. -/
theorem sevenBytes_getLsbD (b0 b1 b2 b3 b4 b5 b6 : Byte) (i : Nat) :
    (b0 ++ b1 ++ b2 ++ b3 ++ b4 ++ b5 ++ b6 : FrameBits).getLsbD i =
      if i < 8 then b6.getLsbD i else if i < 16 then b5.getLsbD (i - 8)
      else if i < 24 then b4.getLsbD (i - 16) else if i < 32 then b3.getLsbD (i - 24)
      else if i < 40 then b2.getLsbD (i - 32) else if i < 48 then b1.getLsbD (i - 40)
      else b0.getLsbD (i - 48) := by
  erw [BitVec.getLsbD_append, BitVec.getLsbD_append, BitVec.getLsbD_append, BitVec.getLsbD_append,
    BitVec.getLsbD_append, BitVec.getLsbD_append]
  simp only [Nat.sub_sub, Nat.reduceAdd]
  split_ifs <;> first | rfl | omega

/-- Seven bytes packed and unpacked are the seven bytes. -/
theorem unpack_pack (b0 b1 b2 b3 b4 b5 b6 : Byte) :
    unpackFrame (packFrame [b0, b1, b2, b3, b4, b5, b6]) = [b0, b1, b2, b3, b4, b5, b6] := by
  simp only [unpackFrame, List.cons.injEq, and_true]
  refine ⟨?_, ?_, ?_, ?_, ?_, ?_, ?_⟩ <;> apply BitVec.eq_of_getLsbD_eq <;> intro i hi <;>
    rw [BitVec.getLsbD_extractLsb', packFrame, sevenBytes_getLsbD] <;> simp only [hi, decide_true, Bool.true_and] <;>
    split_ifs <;> first | omega | simp

/-- A word unpacked and packed is the word: no bit of the port is lost. -/
theorem pack_unpack (w : FrameBits) : packFrame (unpackFrame w) = w := by
  apply BitVec.eq_of_getLsbD_eq
  intro i hi
  have key : ∀ j, j ≤ i → i < j + 8 → (w.extractLsb' j 8).getLsbD (i - j) = w.getLsbD i := by
    intro j h1 h2
    have e : j + (i - j) = i := by omega
    have l : i - j < 8 := by omega
    simp [e, l]
  have key0 : i < 8 → (w.extractLsb' 0 8).getLsbD i = w.getLsbD i := fun h => key 0 (by omega) (by omega)
  rw [packFrame, sevenBytes_getLsbD]
  simp only [unpackFrame, List.getD_cons_zero, List.getD_cons_succ]
  split_ifs <;> first | exact key0 ‹_› | exact key _ (by omega) (by omega)

/-- The validator on a byte sequence is DECODE. -/
theorem validate_validatorIn (buf : List Byte) : validate (validatorIn buf) = decodeFrame buf := by
  rcases seven_or_not buf with ⟨b0, c, m, p, q, k, b6, rfl⟩ | h
  · simp [validate, validatorIn, unpack_pack]
  · simp [validate, validatorIn, h, decodeFrame_length h]

/-- The warning on a byte sequence is its marker mismatch. -/
theorem decMarkerWarn_validatorIn (buf : List Byte) : decMarkerWarn (validatorIn buf) = markerMismatch buf := by
  rcases seven_or_not buf with ⟨b0, c, m, p, q, k, b6, rfl⟩ | h
  · simp [decMarkerWarn, validatorIn, unpack_pack]
  · simp [decMarkerWarn, validatorIn, h, markerMismatch_length h]

/-- The marshaller's output unpacked is ENCODE. -/
theorem unpack_encFrame (c m p q : Byte) : unpackFrame (encFrame c m p q) = encodeFrame c m p q :=
  unpack_pack ..

end Sys2Proof.Machine
end

