-- ==== Sys2Proof/Laws/State.lean ====
section
/-! SUPPORT. One lemma per field per update of State, so that no later proof unfolds a record update. -/

namespace Sys2Proof.Machine

/-! ## emit -/

@[simp] theorem State.emit_mirror (e : Event) (s : State) : (s.emit e).mirror = s.mirror := rfl
@[simp] theorem State.emit_phase (e : Event) (s : State) : (s.emit e).phase = s.phase := rfl
@[simp] theorem State.emit_closed (e : Event) (s : State) : (s.emit e).closed = s.closed := rfl
@[simp] theorem State.emit_initAt (e : Event) (s : State) : (s.emit e).initAt = s.initAt := rfl
@[simp] theorem State.emit_cmdReg (e : Event) (s : State) : (s.emit e).cmdReg = s.cmdReg := rfl
@[simp] theorem State.emit_rst (e : Event) (s : State) : (s.emit e).rst = s.rst := rfl
@[simp] theorem State.emit_cmds (e : Event) (s : State) : (s.emit e).cmds = s.cmds := rfl
@[simp] theorem State.emit_codec (e : Event) (s : State) : (s.emit e).codec = s.codec := rfl
@[simp] theorem State.emit_txAnswers (e : Event) (s : State) : (s.emit e).txAnswers = s.txAnswers := rfl
@[simp] theorem State.emit_rxQueue (e : Event) (s : State) : (s.emit e).rxQueue = s.rxQueue := rfl
@[simp] theorem State.emit_arrivals (e : Event) (s : State) : (s.emit e).arrivals = s.arrivals := rfl
@[simp] theorem State.emit_rxAnswers (e : Event) (s : State) : (s.emit e).rxAnswers = s.rxAnswers := rfl
@[simp] theorem State.emit_trace (e : Event) (s : State) : (s.emit e).trace = s.trace ++ [e] := rfl

/-! ## emitDiag -/

@[simp] theorem State.emitDiag_mirror (c : DiagCode) (v : Half) (s : State) : (s.emitDiag c v).mirror = s.mirror := rfl
@[simp] theorem State.emitDiag_phase (c : DiagCode) (v : Half) (s : State) : (s.emitDiag c v).phase = s.phase := rfl
@[simp] theorem State.emitDiag_closed (c : DiagCode) (v : Half) (s : State) : (s.emitDiag c v).closed = s.closed := rfl
@[simp] theorem State.emitDiag_initAt (c : DiagCode) (v : Half) (s : State) : (s.emitDiag c v).initAt = s.initAt := rfl
@[simp] theorem State.emitDiag_cmdReg (c : DiagCode) (v : Half) (s : State) : (s.emitDiag c v).cmdReg = s.cmdReg := rfl
@[simp] theorem State.emitDiag_rst (c : DiagCode) (v : Half) (s : State) : (s.emitDiag c v).rst = s.rst := rfl
@[simp] theorem State.emitDiag_cmds (c : DiagCode) (v : Half) (s : State) : (s.emitDiag c v).cmds = s.cmds := rfl
@[simp] theorem State.emitDiag_codec (c : DiagCode) (v : Half) (s : State) : (s.emitDiag c v).codec = s.codec := rfl
@[simp] theorem State.emitDiag_txAnswers (c : DiagCode) (v : Half) (s : State) : (s.emitDiag c v).txAnswers = s.txAnswers := rfl
@[simp] theorem State.emitDiag_rxQueue (c : DiagCode) (v : Half) (s : State) : (s.emitDiag c v).rxQueue = s.rxQueue := rfl
@[simp] theorem State.emitDiag_arrivals (c : DiagCode) (v : Half) (s : State) : (s.emitDiag c v).arrivals = s.arrivals := rfl
@[simp] theorem State.emitDiag_rxAnswers (c : DiagCode) (v : Half) (s : State) : (s.emitDiag c v).rxAnswers = s.rxAnswers := rfl
@[simp] theorem State.emitDiag_trace (c : DiagCode) (v : Half) (s : State) : (s.emitDiag c v).trace = s.trace ++ [Event.diag { code := c, info := v }] := rfl

/-! ## setMirror -/

@[simp] theorem State.setMirror_mirror (m : Mirror) (s : State) : (s.setMirror m).mirror = m := rfl
@[simp] theorem State.setMirror_phase (m : Mirror) (s : State) : (s.setMirror m).phase = s.phase := rfl
@[simp] theorem State.setMirror_closed (m : Mirror) (s : State) : (s.setMirror m).closed = s.closed := rfl
@[simp] theorem State.setMirror_initAt (m : Mirror) (s : State) : (s.setMirror m).initAt = s.initAt := rfl
@[simp] theorem State.setMirror_cmdReg (m : Mirror) (s : State) : (s.setMirror m).cmdReg = s.cmdReg := rfl
@[simp] theorem State.setMirror_rst (m : Mirror) (s : State) : (s.setMirror m).rst = s.rst := rfl
@[simp] theorem State.setMirror_cmds (m : Mirror) (s : State) : (s.setMirror m).cmds = s.cmds := rfl
@[simp] theorem State.setMirror_codec (m : Mirror) (s : State) : (s.setMirror m).codec = s.codec := rfl
@[simp] theorem State.setMirror_txAnswers (m : Mirror) (s : State) : (s.setMirror m).txAnswers = s.txAnswers := rfl
@[simp] theorem State.setMirror_rxQueue (m : Mirror) (s : State) : (s.setMirror m).rxQueue = s.rxQueue := rfl
@[simp] theorem State.setMirror_arrivals (m : Mirror) (s : State) : (s.setMirror m).arrivals = s.arrivals := rfl
@[simp] theorem State.setMirror_rxAnswers (m : Mirror) (s : State) : (s.setMirror m).rxAnswers = s.rxAnswers := rfl
@[simp] theorem State.setMirror_trace (m : Mirror) (s : State) : (s.setMirror m).trace = s.trace := rfl

/-! ## applyReport -/

@[simp] theorem State.applyReport_mirror (h : Mirror → Mirror) (s : State) : (s.applyReport h).mirror = h s.mirror := rfl
@[simp] theorem State.applyReport_phase (h : Mirror → Mirror) (s : State) : (s.applyReport h).phase = s.phase := rfl
@[simp] theorem State.applyReport_closed (h : Mirror → Mirror) (s : State) : (s.applyReport h).closed = s.closed := rfl
@[simp] theorem State.applyReport_initAt (h : Mirror → Mirror) (s : State) : (s.applyReport h).initAt = s.initAt := rfl
@[simp] theorem State.applyReport_cmdReg (h : Mirror → Mirror) (s : State) : (s.applyReport h).cmdReg = s.cmdReg := rfl
@[simp] theorem State.applyReport_rst (h : Mirror → Mirror) (s : State) : (s.applyReport h).rst = s.rst := rfl
@[simp] theorem State.applyReport_cmds (h : Mirror → Mirror) (s : State) : (s.applyReport h).cmds = s.cmds := rfl
@[simp] theorem State.applyReport_codec (h : Mirror → Mirror) (s : State) : (s.applyReport h).codec = s.codec := rfl
@[simp] theorem State.applyReport_txAnswers (h : Mirror → Mirror) (s : State) : (s.applyReport h).txAnswers = s.txAnswers := rfl
@[simp] theorem State.applyReport_rxQueue (h : Mirror → Mirror) (s : State) : (s.applyReport h).rxQueue = s.rxQueue := rfl
@[simp] theorem State.applyReport_arrivals (h : Mirror → Mirror) (s : State) : (s.applyReport h).arrivals = s.arrivals := rfl
@[simp] theorem State.applyReport_rxAnswers (h : Mirror → Mirror) (s : State) : (s.applyReport h).rxAnswers = s.rxAnswers := rfl
@[simp] theorem State.applyReport_trace (h : Mirror → Mirror) (s : State) : (s.applyReport h).trace = s.trace := rfl

/-! ## setPhase -/

@[simp] theorem State.setPhase_mirror (p : Phase) (s : State) : (s.setPhase p).mirror = s.mirror := by unfold State.setPhase; split <;> rfl
@[simp] theorem State.setPhase_phase (p : Phase) (s : State) : (s.setPhase p).phase = p := by unfold State.setPhase; split <;> simp_all
@[simp] theorem State.setPhase_closed (p : Phase) (s : State) : (s.setPhase p).closed = s.closed := by unfold State.setPhase; split <;> rfl
@[simp] theorem State.setPhase_initAt (p : Phase) (s : State) : (s.setPhase p).initAt = s.initAt := by unfold State.setPhase; split <;> rfl
@[simp] theorem State.setPhase_cmdReg (p : Phase) (s : State) : (s.setPhase p).cmdReg = s.cmdReg := by unfold State.setPhase; split <;> rfl
@[simp] theorem State.setPhase_rst (p : Phase) (s : State) : (s.setPhase p).rst = s.rst := by unfold State.setPhase; split <;> rfl
@[simp] theorem State.setPhase_cmds (p : Phase) (s : State) : (s.setPhase p).cmds = s.cmds := by unfold State.setPhase; split <;> rfl
@[simp] theorem State.setPhase_codec (p : Phase) (s : State) : (s.setPhase p).codec = s.codec := by unfold State.setPhase; split <;> rfl
@[simp] theorem State.setPhase_txAnswers (p : Phase) (s : State) : (s.setPhase p).txAnswers = s.txAnswers := by unfold State.setPhase; split <;> rfl
@[simp] theorem State.setPhase_rxQueue (p : Phase) (s : State) : (s.setPhase p).rxQueue = s.rxQueue := by unfold State.setPhase; split <;> rfl
@[simp] theorem State.setPhase_arrivals (p : Phase) (s : State) : (s.setPhase p).arrivals = s.arrivals := by unfold State.setPhase; split <;> rfl
@[simp] theorem State.setPhase_rxAnswers (p : Phase) (s : State) : (s.setPhase p).rxAnswers = s.rxAnswers := by unfold State.setPhase; split <;> rfl
@[simp] theorem State.setPhase_trace (p : Phase) (s : State) : (s.setPhase p).trace = s.trace ++ (if s.phase = p then [] else [Event.phase p]) := by unfold State.setPhase; split <;> simp_all

/-! ## enterStage -/

@[simp] theorem State.enterStage_mirror (p : Phase) (s : State) : (s.enterStage p).mirror = s.mirror := by unfold State.enterStage; split <;> simp
@[simp] theorem State.enterStage_phase (p : Phase) (s : State) : (s.enterStage p).phase = (if s.phase = .init then .init else p) := by unfold State.enterStage; split <;> simp_all
@[simp] theorem State.enterStage_closed (p : Phase) (s : State) : (s.enterStage p).closed = s.closed := by unfold State.enterStage; split <;> simp
@[simp] theorem State.enterStage_initAt (p : Phase) (s : State) : (s.enterStage p).initAt = s.initAt := by unfold State.enterStage; split <;> simp
@[simp] theorem State.enterStage_cmdReg (p : Phase) (s : State) : (s.enterStage p).cmdReg = s.cmdReg := by unfold State.enterStage; split <;> simp
@[simp] theorem State.enterStage_rst (p : Phase) (s : State) : (s.enterStage p).rst = s.rst := by unfold State.enterStage; split <;> simp
@[simp] theorem State.enterStage_cmds (p : Phase) (s : State) : (s.enterStage p).cmds = s.cmds := by unfold State.enterStage; split <;> simp
@[simp] theorem State.enterStage_codec (p : Phase) (s : State) : (s.enterStage p).codec = s.codec := by unfold State.enterStage; split <;> simp
@[simp] theorem State.enterStage_txAnswers (p : Phase) (s : State) : (s.enterStage p).txAnswers = s.txAnswers := by unfold State.enterStage; split <;> simp
@[simp] theorem State.enterStage_rxQueue (p : Phase) (s : State) : (s.enterStage p).rxQueue = s.rxQueue := by unfold State.enterStage; split <;> simp
@[simp] theorem State.enterStage_arrivals (p : Phase) (s : State) : (s.enterStage p).arrivals = s.arrivals := by unfold State.enterStage; split <;> simp
@[simp] theorem State.enterStage_rxAnswers (p : Phase) (s : State) : (s.enterStage p).rxAnswers = s.rxAnswers := by unfold State.enterStage; split <;> simp
@[simp] theorem State.enterStage_trace (p : Phase) (s : State) : (s.enterStage p).trace = s.trace ++ (if s.phase = .init ∨ s.phase = p then [] else [Event.phase p]) := by unfold State.enterStage; split <;> simp_all

/-! ## endWith -/

@[simp] theorem State.endWith_mirror (c : ResCode) (d : ResData) (s : State) : (s.endWith c d).mirror = s.mirror := by simp [State.endWith]
@[simp] theorem State.endWith_phase (c : ResCode) (d : ResData) (s : State) : (s.endWith c d).phase = .idle := by simp [State.endWith]
@[simp] theorem State.endWith_closed (c : ResCode) (d : ResData) (s : State) : (s.endWith c d).closed = s.closed := by simp [State.endWith]
@[simp] theorem State.endWith_initAt (c : ResCode) (d : ResData) (s : State) : (s.endWith c d).initAt = s.initAt := by simp [State.endWith]
@[simp] theorem State.endWith_cmdReg (c : ResCode) (d : ResData) (s : State) : (s.endWith c d).cmdReg = s.cmdReg := by simp [State.endWith]
@[simp] theorem State.endWith_rst (c : ResCode) (d : ResData) (s : State) : (s.endWith c d).rst = s.rst := by simp [State.endWith]
@[simp] theorem State.endWith_cmds (c : ResCode) (d : ResData) (s : State) : (s.endWith c d).cmds = s.cmds := by simp [State.endWith]
@[simp] theorem State.endWith_codec (c : ResCode) (d : ResData) (s : State) : (s.endWith c d).codec = s.codec := by simp [State.endWith]
@[simp] theorem State.endWith_txAnswers (c : ResCode) (d : ResData) (s : State) : (s.endWith c d).txAnswers = s.txAnswers := by simp [State.endWith]
@[simp] theorem State.endWith_rxQueue (c : ResCode) (d : ResData) (s : State) : (s.endWith c d).rxQueue = s.rxQueue := by simp [State.endWith]
@[simp] theorem State.endWith_arrivals (c : ResCode) (d : ResData) (s : State) : (s.endWith c d).arrivals = s.arrivals := by simp [State.endWith]
@[simp] theorem State.endWith_rxAnswers (c : ResCode) (d : ResData) (s : State) : (s.endWith c d).rxAnswers = s.rxAnswers := by simp [State.endWith]
@[simp] theorem State.endWith_trace (c : ResCode) (d : ResData) (s : State) : (s.endWith c d).trace = s.trace ++ (if s.phase = .idle then [] else [Event.phase .idle]) ++ [Event.result c d] := by simp [State.endWith]

/-! ## warnMarkers -/

@[simp] theorem State.warnMarkers_mirror (a b : Byte) (s : State) : (s.warnMarkers a b).mirror = s.mirror := by unfold State.warnMarkers; split <;> rfl
@[simp] theorem State.warnMarkers_phase (a b : Byte) (s : State) : (s.warnMarkers a b).phase = s.phase := by unfold State.warnMarkers; split <;> rfl
@[simp] theorem State.warnMarkers_closed (a b : Byte) (s : State) : (s.warnMarkers a b).closed = s.closed := by unfold State.warnMarkers; split <;> rfl
@[simp] theorem State.warnMarkers_initAt (a b : Byte) (s : State) : (s.warnMarkers a b).initAt = s.initAt := by unfold State.warnMarkers; split <;> rfl
@[simp] theorem State.warnMarkers_cmdReg (a b : Byte) (s : State) : (s.warnMarkers a b).cmdReg = s.cmdReg := by unfold State.warnMarkers; split <;> rfl
@[simp] theorem State.warnMarkers_rst (a b : Byte) (s : State) : (s.warnMarkers a b).rst = s.rst := by unfold State.warnMarkers; split <;> rfl
@[simp] theorem State.warnMarkers_cmds (a b : Byte) (s : State) : (s.warnMarkers a b).cmds = s.cmds := by unfold State.warnMarkers; split <;> rfl
@[simp] theorem State.warnMarkers_codec (a b : Byte) (s : State) : (s.warnMarkers a b).codec = s.codec := by unfold State.warnMarkers; split <;> rfl
@[simp] theorem State.warnMarkers_txAnswers (a b : Byte) (s : State) : (s.warnMarkers a b).txAnswers = s.txAnswers := by unfold State.warnMarkers; split <;> rfl
@[simp] theorem State.warnMarkers_rxQueue (a b : Byte) (s : State) : (s.warnMarkers a b).rxQueue = s.rxQueue := by unfold State.warnMarkers; split <;> rfl
@[simp] theorem State.warnMarkers_arrivals (a b : Byte) (s : State) : (s.warnMarkers a b).arrivals = s.arrivals := by unfold State.warnMarkers; split <;> rfl
@[simp] theorem State.warnMarkers_rxAnswers (a b : Byte) (s : State) : (s.warnMarkers a b).rxAnswers = s.rxAnswers := by unfold State.warnMarkers; split <;> rfl
@[simp] theorem State.warnMarkers_trace (a b : Byte) (s : State) : (s.warnMarkers a b).trace = s.trace ++ (if a ≠ Config.stx ∨ b ≠ Config.etx then [Event.diag { code := .markerWarn, info := a ++ b }] else []) := by unfold State.warnMarkers; split <;> simp_all

/-! ## reportUnknown -/

@[simp] theorem State.reportUnknown_mirror (c : Byte) (s : State) : (s.reportUnknown c).mirror = s.mirror := rfl
@[simp] theorem State.reportUnknown_phase (c : Byte) (s : State) : (s.reportUnknown c).phase = s.phase := rfl
@[simp] theorem State.reportUnknown_closed (c : Byte) (s : State) : (s.reportUnknown c).closed = s.closed := rfl
@[simp] theorem State.reportUnknown_initAt (c : Byte) (s : State) : (s.reportUnknown c).initAt = s.initAt := rfl
@[simp] theorem State.reportUnknown_cmdReg (c : Byte) (s : State) : (s.reportUnknown c).cmdReg = s.cmdReg := rfl
@[simp] theorem State.reportUnknown_rst (c : Byte) (s : State) : (s.reportUnknown c).rst = s.rst := rfl
@[simp] theorem State.reportUnknown_cmds (c : Byte) (s : State) : (s.reportUnknown c).cmds = s.cmds := rfl
@[simp] theorem State.reportUnknown_codec (c : Byte) (s : State) : (s.reportUnknown c).codec = s.codec := rfl
@[simp] theorem State.reportUnknown_txAnswers (c : Byte) (s : State) : (s.reportUnknown c).txAnswers = s.txAnswers := rfl
@[simp] theorem State.reportUnknown_rxQueue (c : Byte) (s : State) : (s.reportUnknown c).rxQueue = s.rxQueue := rfl
@[simp] theorem State.reportUnknown_arrivals (c : Byte) (s : State) : (s.reportUnknown c).arrivals = s.arrivals := rfl
@[simp] theorem State.reportUnknown_rxAnswers (c : Byte) (s : State) : (s.reportUnknown c).rxAnswers = s.rxAnswers := rfl
@[simp] theorem State.reportUnknown_trace (c : Byte) (s : State) : (s.reportUnknown c).trace = s.trace ++ [Event.diag { code := .unknownCmd, info := c.setWidth 16 }] := rfl

/-! ## accept -/

@[simp] theorem State.accept_mirror (i : Instr) (s : State) : (s.accept i).mirror = s.mirror := by unfold State.accept; split <;> rfl
@[simp] theorem State.accept_phase (i : Instr) (s : State) : (s.accept i).phase = s.phase := by unfold State.accept; split <;> rfl
@[simp] theorem State.accept_closed (i : Instr) (s : State) : (s.accept i).closed = s.closed := by unfold State.accept; split <;> rfl
@[simp] theorem State.accept_initAt (i : Instr) (s : State) : (s.accept i).initAt = s.initAt := by unfold State.accept; split <;> rfl
@[simp] theorem State.accept_rst (i : Instr) (s : State) : (s.accept i).rst = s.rst := by unfold State.accept; split <;> rfl
@[simp] theorem State.accept_cmds (i : Instr) (s : State) : (s.accept i).cmds = s.cmds := by unfold State.accept; split <;> rfl
@[simp] theorem State.accept_codec (i : Instr) (s : State) : (s.accept i).codec = s.codec := by unfold State.accept; split <;> rfl
@[simp] theorem State.accept_txAnswers (i : Instr) (s : State) : (s.accept i).txAnswers = s.txAnswers := by unfold State.accept; split <;> rfl
@[simp] theorem State.accept_rxQueue (i : Instr) (s : State) : (s.accept i).rxQueue = s.rxQueue := by unfold State.accept; split <;> rfl
@[simp] theorem State.accept_arrivals (i : Instr) (s : State) : (s.accept i).arrivals = s.arrivals := by unfold State.accept; split <;> rfl
@[simp] theorem State.accept_rxAnswers (i : Instr) (s : State) : (s.accept i).rxAnswers = s.rxAnswers := by unfold State.accept; split <;> rfl
@[simp] theorem State.accept_trace (i : Instr) (s : State) : (s.accept i).trace = s.trace := by unfold State.accept; split <;> rfl

/-! ## One read of the receive queue -/

@[simp] theorem State.afterRead_mirror (s : State) : s.afterRead.mirror = s.mirror := rfl
@[simp] theorem State.afterRead_phase (s : State) : s.afterRead.phase = s.phase := rfl
@[simp] theorem State.afterRead_closed (s : State) : s.afterRead.closed = s.closed := rfl
@[simp] theorem State.afterRead_initAt (s : State) : s.afterRead.initAt = s.initAt := rfl
@[simp] theorem State.afterRead_cmdReg (s : State) : s.afterRead.cmdReg = s.cmdReg := rfl
@[simp] theorem State.afterRead_rst (s : State) : s.afterRead.rst = s.rst := rfl
@[simp] theorem State.afterRead_cmds (s : State) : s.afterRead.cmds = s.cmds := rfl
@[simp] theorem State.afterRead_codec (s : State) : s.afterRead.codec = s.codec := rfl
@[simp] theorem State.afterRead_txAnswers (s : State) : s.afterRead.txAnswers = s.txAnswers := rfl
@[simp] theorem State.afterRead_arrivals (s : State) : s.afterRead.arrivals = s.arrivals := rfl
@[simp] theorem State.afterRead_trace (s : State) : s.afterRead.trace = s.trace := rfl

/-- The read of the drain is the read claims speak of. -/
theorem rxRead_eq (s : State) : rxRead Config.rxChunk s = (s.nextRead, s.afterRead) := rfl

/-! ## nextArrival -/

/-- The bytes of the next settle depend on the arrivals alone. -/
theorem State.nextArrival_congr {s t : State} (h : s.arrivals = t.arrivals) : s.nextArrival = t.nextArrival := by
  simp [State.nextArrival, h]

@[simp] theorem State.nextArrival_setPhase (p : Phase) (s : State) : (s.setPhase p).nextArrival = s.nextArrival :=
  State.nextArrival_congr (by simp)
@[simp] theorem State.nextArrival_enterStage (p : Phase) (s : State) : (s.enterStage p).nextArrival = s.nextArrival :=
  State.nextArrival_congr (by simp)

/-! ## arrive -/

@[simp] theorem State.arrive_mirror (s : State) : s.arrive.mirror = s.mirror := rfl
@[simp] theorem State.arrive_phase (s : State) : s.arrive.phase = s.phase := rfl
@[simp] theorem State.arrive_closed (s : State) : s.arrive.closed = s.closed := rfl
@[simp] theorem State.arrive_initAt (s : State) : s.arrive.initAt = s.initAt := rfl
@[simp] theorem State.arrive_cmdReg (s : State) : s.arrive.cmdReg = s.cmdReg := rfl
@[simp] theorem State.arrive_rst (s : State) : s.arrive.rst = s.rst := rfl
@[simp] theorem State.arrive_cmds (s : State) : s.arrive.cmds = s.cmds := rfl
@[simp] theorem State.arrive_codec (s : State) : s.arrive.codec = s.codec := rfl
@[simp] theorem State.arrive_txAnswers (s : State) : s.arrive.txAnswers = s.txAnswers := rfl
@[simp] theorem State.arrive_rxQueue (s : State) : s.arrive.rxQueue = s.rxQueue ++ s.nextArrival := rfl
@[simp] theorem State.arrive_arrivals (s : State) : s.arrive.arrivals = s.arrivals.tail := rfl
@[simp] theorem State.arrive_rxAnswers (s : State) : s.arrive.rxAnswers = s.rxAnswers := rfl
@[simp] theorem State.arrive_trace (s : State) : s.arrive.trace = s.trace := rfl

/-! ## settle -/

@[simp] theorem State.settle_mirror (s : State) : (settle s).mirror = s.mirror := by simp [settle]
@[simp] theorem State.settle_phase (s : State) : (settle s).phase = (if s.phase = .init then .init else .settle) := by simp [settle]
@[simp] theorem State.settle_closed (s : State) : (settle s).closed = s.closed := by simp [settle]
@[simp] theorem State.settle_initAt (s : State) : (settle s).initAt = s.initAt := by simp [settle]
@[simp] theorem State.settle_cmdReg (s : State) : (settle s).cmdReg = s.cmdReg := by simp [settle]
@[simp] theorem State.settle_rst (s : State) : (settle s).rst = s.rst := by simp [settle]
@[simp] theorem State.settle_cmds (s : State) : (settle s).cmds = s.cmds := by simp [settle]
@[simp] theorem State.settle_codec (s : State) : (settle s).codec = s.codec := by simp [settle]
@[simp] theorem State.settle_txAnswers (s : State) : (settle s).txAnswers = s.txAnswers := by simp [settle]
@[simp] theorem State.settle_rxQueue (s : State) : (settle s).rxQueue = s.rxQueue ++ s.nextArrival := by simp [settle]
@[simp] theorem State.settle_arrivals (s : State) : (settle s).arrivals = s.arrivals.tail := by simp [settle]
@[simp] theorem State.settle_rxAnswers (s : State) : (settle s).rxAnswers = s.rxAnswers := by simp [settle]
@[simp] theorem State.settle_trace (s : State) : (settle s).trace = s.trace ++ (if s.phase = .init ∨ s.phase = .settle then [] else [Event.phase .settle]) := by simp [settle]

/-! ## Reading past an update -/

/-- What the next drain reads depends on the receive side alone. -/
theorem State.waiting_congr {s t : State} (h1 : s.rxQueue = t.rxQueue) (h2 : s.arrivals = t.arrivals)
    (h3 : s.rxAnswers = t.rxAnswers) : s.waiting = t.waiting := by
  simp [State.waiting, State.nextArrival, h1, h2, h3]

/-- What a drain in progress has still to read depends on the queue and the answers alone. -/
theorem State.queued_congr {s t : State} (h1 : s.rxQueue = t.rxQueue) (h2 : s.rxAnswers = t.rxAnswers) :
    s.queued = t.queued := by
  simp [State.queued, h1, h2]

/-- A drain after a settle reads what was waiting before it. -/
@[simp] theorem State.queued_settle (s : State) : (settle s).queued = s.waiting := by
  simp [State.queued, State.waiting]

@[simp] theorem State.queued_enterStage (p : Phase) (s : State) : (s.enterStage p).queued = s.queued :=
  State.queued_congr (by simp) (by simp)

/-- The transport's next answer depends on its answers alone. -/
theorem State.nextAnswer_congr {s t : State} (h : s.txAnswers = t.txAnswers) :
    s.nextAnswer = t.nextAnswer := by
  simp [State.nextAnswer, h]

@[simp] theorem State.waiting_setPhase (p : Phase) (s : State) : (s.setPhase p).waiting = s.waiting :=
  State.waiting_congr (by simp) (by simp) (by simp)

@[simp] theorem State.nextAnswer_setPhase (p : Phase) (s : State) : (s.setPhase p).nextAnswer = s.nextAnswer :=
  State.nextAnswer_congr (by simp)

@[simp] theorem State.waiting_enterStage (p : Phase) (s : State) : (s.enterStage p).waiting = s.waiting :=
  State.waiting_congr (by simp) (by simp) (by simp)

@[simp] theorem State.nextAnswer_enterStage (p : Phase) (s : State) : (s.enterStage p).nextAnswer = s.nextAnswer :=
  State.nextAnswer_congr (by simp)

@[simp] theorem State.nextAnswer_settle (s : State) : (settle s).nextAnswer = s.nextAnswer :=
  State.nextAnswer_congr (by simp)

@[simp] theorem State.waiting_applyReport (h : Mirror → Mirror) (s : State) : (s.applyReport h).waiting = s.waiting :=
  State.waiting_congr (by simp) (by simp) (by simp)

@[simp] theorem State.nextAnswer_applyReport (h : Mirror → Mirror) (s : State) : (s.applyReport h).nextAnswer = s.nextAnswer :=
  State.nextAnswer_congr (by simp)

@[simp] theorem State.waiting_accept (i : Instr) (s : State) : (s.accept i).waiting = s.waiting :=
  State.waiting_congr (by simp) (by simp) (by simp)

@[simp] theorem State.nextAnswer_accept (i : Instr) (s : State) : (s.accept i).nextAnswer = s.nextAnswer :=
  State.nextAnswer_congr (by simp)

/-- The command register after acceptance: the word of the accepted operation. -/
theorem State.accept_eq {i : Instr} {w : CmdWord} (h : encode i = .cmd w) (s : State) :
    s.accept i = { s with cmdReg := w } := by
  simp [State.accept, h]

/-- Two states are equal when their fields are. -/
theorem State.ext_fields {s t : State} (h1 : s.mirror = t.mirror) (h2 : s.phase = t.phase)
    (h3 : s.closed = t.closed) (h4 : s.initAt = t.initAt) (h5 : s.cmdReg = t.cmdReg)
    (h6 : s.rst = t.rst) (h7 : s.cmds = t.cmds) (h8 : s.codec = t.codec)
    (h9 : s.txAnswers = t.txAnswers) (h10 : s.rxQueue = t.rxQueue) (h11 : s.arrivals = t.arrivals)
    (h12 : s.rxAnswers = t.rxAnswers) (h13 : s.trace = t.trace) : s = t := by
  cases s; cases t; simp_all

end Sys2Proof.Machine
end

