-- ==== Sys2Proof/Laws/Receive.lean ====
section
/-! SUPPORT. Receive processing: what one buffer, and a whole drain, can do. -/

namespace Sys2Proof.Machine

/-- DISPATCH writes the mirror as the handler says and reports an unknown command byte. -/
theorem dispatch_eq (c m p q : Byte) (s : State) :
    dispatch c m p q s =
      { s with
        mirror := applyFrame c m p q s.mirror
        trace := s.trace ++ (if c ∈ responseCodes then []
          else [Event.diag { code := .unknownCmd, info := c.setWidth 16 }]) } := by
  unfold dispatch applyFrame responseCodes
  split_ifs <;>
    simp_all [State.applyReport, State.setMirror, State.reportUnknown, State.emitDiag, State.emit]

/-- RxProcess changes the mirror and the diagnostics stream and nothing else. -/
theorem rxProcess_eq (buf : List Byte) (s : State) :
    rxProcess buf s =
      { s with mirror := mirrorAfter buf s.mirror, trace := s.trace ++ (diagsOf buf).map .diag } := by
  rcases seven_or_not buf with ⟨b0, c, m, p, q, k, b6, rfl⟩ | h
  · simp only [rxProcess, mirrorAfter, diagsOf, decodeFrame_seven, markerMismatch, byteAt,
      List.getD_cons_zero, List.getD_cons_succ, dispatch_eq, ← checksum_eq_neg, decide_eq_true_eq]
    by_cases hk : k = checksum c m p q <;> by_cases hm : b0 ≠ Config.stx ∨ b6 ≠ Config.etx <;>
      by_cases hc : c ∈ responseCodes <;>
      simp [hk, hm, hc, State.warnMarkers, State.emitDiag, State.emit]
  · have e : rxProcess buf s = s.emitDiag .length (lengthInfo buf.length) := by
      unfold rxProcess; split
      · simp at h
      · rfl
    simp [e, mirrorAfter, diagsOf, decodeFrame_length h, markerMismatch_length h, State.emitDiag,
      State.emit, lengthInfo]

/-! ## The receive queue in reads -/

/-- An empty queue gives no buffer. -/
@[simp] theorem cuts_nil (answers : List RxAnswer) : cuts [] answers = [] := by
  unfold cuts
  cases h : ([] : List Byte).length + answers.length <;> simp [cutsUpTo]

/-- What is left of queue and answers gets shorter with each read. -/
theorem read_shorter {q : List Byte} (hq : q ≠ []) (answers : List RxAnswer) :
    (q.drop (takenBy answers)).length + answers.tail.length < q.length + answers.length := by
  have h0 : 0 < q.length := List.length_pos_iff.mpr hq
  cases answers with
  | nil => simp [takenBy, RxAnswer.full]; omega
  | cons a as => simp; omega

/-- Enough fuel is enough. -/
theorem cutsUpTo_fuel {f g : Nat} {q : List Byte} {answers : List RxAnswer} (hf : q.length + answers.length ≤ f)
    (hg : q.length + answers.length ≤ g) : cutsUpTo f q answers = cutsUpTo g q answers := by
  induction f generalizing g q answers with
  | zero =>
    have : q = [] := List.length_eq_zero_iff.mp (by omega)
    subst this
    cases g <;> simp [cutsUpTo]
  | succ f ih =>
    by_cases hq : q = []
    · subst hq
      cases g <;> simp [cutsUpTo]
    · have h0 : 0 < q.length := List.length_pos_iff.mpr hq
      have hs := read_shorter hq answers
      cases g with
      | zero => omega
      | succ g =>
        simp only [cutsUpTo, if_neg hq]
        congr 1
        exact ih (by omega) (by omega)

/-- The first buffer of a queue that is not empty, and the rest. -/
theorem cuts_cons {q : List Byte} (hq : q ≠ []) (answers : List RxAnswer) :
    cuts q answers = readBuffer q answers :: cuts (q.drop (takenBy answers)) answers.tail := by
  have hs := read_shorter hq answers
  unfold cuts
  rw [cutsUpTo_fuel (f := q.length + answers.length) (g := q.length + answers.length + 1) (by omega) (by omega)]
  rw [cutsUpTo, if_neg hq]
  congr 1
  exact cutsUpTo_fuel (by omega) (le_refl _)

/-- Induction along the reads of a queue. -/
theorem reads_induction {P : List Byte → List RxAnswer → Prop} (hnil : ∀ answers, P [] answers)
    (hread : ∀ q answers, q ≠ [] → P (q.drop (takenBy answers)) answers.tail → P q answers)
    (q : List Byte) (answers : List RxAnswer) : P q answers := by
  generalize hn : q.length + answers.length = n
  induction n using Nat.strong_induction_on generalizing q answers with
  | _ n ih =>
    by_cases hq : q = []
    · subst hq; exact hnil answers
    · exact hread q answers hq (ih _ (hn ▸ read_shorter hq answers) _ _ rfl)

/-- A read returns at most 7 bytes. -/
theorem readBuffer_length_le (q : List Byte) (answers : List RxAnswer) : (readBuffer q answers).length ≤ 7 := by
  simp [readBuffer, takenBy]

/-- A read returns bytes from the front of the queue, of which it takes at least these. -/
theorem readBuffer_prefix (q : List Byte) (answers : List RxAnswer) :
    readBuffer q answers <+: q.take (takenBy answers) := List.take_prefix _ _

/-- Where no read times out a read returns every byte it takes. -/
theorem readBuffer_noTimeout {answers : List RxAnswer} (h : NoTimeout answers) (q : List Byte) :
    readBuffer q answers = q.take (takenBy answers) := by
  refine List.take_of_length_le ?_
  cases answers with
  | nil => simp [takenBy, RxAnswer.full]
  | cons a as =>
    have := h a (by simp)
    simp [takenBy]; omega

/-- The buffers put together are bytes of the queue in arrival order: none doubled, none reordered. -/
theorem cuts_flatten_sublist (q : List Byte) (answers : List RxAnswer) : (cuts q answers).flatten.Sublist q := by
  induction q, answers using reads_induction with
  | hnil => simp
  | hread q answers hq ih =>
    rw [cuts_cons hq, List.flatten_cons]
    conv => rhs; rw [← List.take_append_drop (takenBy answers) q]
    exact (readBuffer_prefix q answers).sublist.append ih

/-- Where no read times out they are the whole queue. -/
theorem cuts_flatten {answers : List RxAnswer} (h : NoTimeout answers) (q : List Byte) :
    (cuts q answers).flatten = q := by
  induction q, answers using reads_induction with
  | hnil => simp
  | hread q answers hq ih =>
    rw [cuts_cons hq, List.flatten_cons, ih fun a ha => h a (List.mem_of_mem_tail ha), readBuffer_noTimeout h,
      List.take_append_drop]

/-- No buffer of a drain has more than 7 bytes. -/
theorem cuts_length_le {q : List Byte} {answers : List RxAnswer} {b : List Byte} (h : b ∈ cuts q answers) :
    b.length ≤ 7 := by
  induction q, answers using reads_induction with
  | hnil => simp at h
  | hread q answers hq ih =>
    rw [cuts_cons hq] at h
    rcases List.mem_cons.mp h with rfl | h
    · exact readBuffer_length_le q answers
    · exact ih h

/-- The next read of a drain in progress, and the reads after it. -/
theorem State.queued_read {s : State} (h : s.rxQueue ≠ []) : s.queued = s.nextRead :: s.afterRead.queued :=
  cuts_cons h _

/-- The loop of a drain, with any fuel that is enough: the queue is empty at its end. -/
theorem drainLoop_eq {fuel : Nat} {s : State} (h : s.rxQueue.length + s.rxAnswers.length ≤ fuel) :
    drainLoop fuel s =
      { s with
        mirror := drainMirror s.queued s.mirror
        rxQueue := []
        rxAnswers := s.rxAnswers.drop s.queued.length
        trace := s.trace ++ drainDiags s.queued } := by
  induction fuel generalizing s with
  | zero =>
    have hq : s.rxQueue = [] := List.length_eq_zero_iff.mp (by omega)
    apply State.ext_fields <;> simp [drainLoop, State.queued, hq, drainMirror, drainDiags]
  | succ f ih =>
    by_cases hq : s.rxQueue = []
    · apply State.ext_fields <;> simp [drainLoop, rxAvail, State.queued, hq, drainMirror, drainDiags]
    · have hl : ¬ rxAvail s = 0 := by simpa [rxAvail] using hq
      have hs := read_shorter hq s.rxAnswers
      rw [drainLoop, if_neg hl, rxProcess_eq, rxRead_eq, ih (by simp only [State.afterRead]; omega)]
      apply State.ext_fields <;>
        simp only [State.queued_read hq] <;>
        simp [State.afterRead, State.queued, drainMirror, drainDiags, List.drop_tail]

/-- A drain: the phase (outside INIT), the mirror, the diagnostics and the receive queue, nothing else. -/
theorem drain_eq (s : State) :
    drain s =
      { s with
        mirror := drainMirror s.queued s.mirror
        phase := if s.phase = .init then .init else .drain
        rxQueue := []
        rxAnswers := s.rxAnswers.drop s.queued.length
        trace := s.trace ++ (if s.phase = .init ∨ s.phase = .drain then [] else [Event.phase .drain]) ++
          drainDiags s.queued } := by
  rw [drain, drainLoop_eq (by simp)]
  apply State.ext_fields <;> simp

/-- A drain after a settle. -/
theorem drain_settle_eq (s : State) :
    drain (settle s) =
      { s with
        mirror := drainMirror s.waiting s.mirror
        phase := if s.phase = .init then .init else .drain
        rxQueue := []
        arrivals := s.arrivals.tail
        rxAnswers := s.rxAnswers.drop s.waiting.length
        trace := s.trace ++ (if s.phase = .init ∨ s.phase = .settle then [] else [Event.phase .settle]) ++
          (if s.phase = .init then [] else [Event.phase .drain]) ++ drainDiags s.waiting } := by
  rw [drain_eq]
  apply State.ext_fields <;> simp
  by_cases h : s.phase = .init <;> simp [h]

end Sys2Proof.Machine
end

