-- ==== Sys2Proof/Laws/Ops.lean ====
section
/-! SUPPORT. The shared operations of the sequencer: everything each can answer. -/

namespace Sys2Proof.Machine

/-- SendAndSync: the two outcomes of R142. -/
theorem sendAndSync_eq (f : Payload) (s : State) :
    sendAndSync f s =
      match s.nextAnswer with
      | .error => (.error, (txWrite (encodeFrame f.command f.mask f.p1 f.p2) (s.enterStage .tx)).2)
      | .ok => (.ok, drain (settle (txWrite (encodeFrame f.command f.mask f.p1 f.p2) (s.enterStage .tx)).2)) := by
  unfold sendAndSync txWrite
  simp only [State.nextAnswer_enterStage]
  cases s.nextAnswer <;> rfl

/-- TX to the end of an operation, from a state outside INIT in which TX is entered or being entered. -/
theorem fromTx_eq (p : Plan) (s : State) (h : s.phase ≠ .init) :
    p.fromTx s =
      match s.nextAnswer with
      | .ok =>
        { s with
          mirror := drainMirror s.waiting s.mirror, phase := .idle
          txAnswers := s.txAnswers.tail, rxQueue := [], arrivals := s.arrivals.tail
          rxAnswers := s.rxAnswers.drop s.waiting.length
          trace := s.trace ++ (if s.phase = .tx then [] else [Event.phase .tx]) ++
            [Event.tx (frameBytes (p.payload s.mirror).command (p.payload s.mirror).mask
                (p.payload s.mirror).p1 (p.payload s.mirror).p2) .ok, Event.phase .settle, Event.phase .drain] ++
            drainDiags s.waiting ++
            [Event.phase .idle, Event.result .ok (p.reply (drainMirror s.waiting s.mirror))] }
      | .error =>
        { s with
          phase := .idle, txAnswers := s.txAnswers.tail
          trace := s.trace ++ (if s.phase = .tx then [] else [Event.phase .tx]) ++
            [Event.tx (frameBytes (p.payload s.mirror).command (p.payload s.mirror).mask
                (p.payload s.mirror).p1 (p.payload s.mirror).p2) .error, Event.phase .idle,
              Event.result .errTransport .none] } := by
  unfold Plan.fromTx
  rw [sendAndSync_eq]
  cases hn : s.nextAnswer <;>
    apply State.ext_fields <;>
    simp [txWrite, drain_settle_eq, encodeFrame_eq, h, hn, State.waiting, State.nextArrival]

/-- A host operation that is not accepted at once. -/
theorem whenAccepted_idle {s : State} (h : s.phase = .idle) (run : State → State) :
    whenAccepted s run = .next (run s) := by
  simp [whenAccepted, h]

/-- An accepted operation whose check fails. -/
theorem transact_rejected {i : Instr} {w : CmdWord} {p : Plan} {e : ResCode} {s : State}
    (hs : s.phase = .idle) (hw : encode i = .cmd w) (hc : p.check = some e) :
    transact i p s = .next (afterRejection w e s) := by
  rw [transact, whenAccepted_idle hs, Plan.fromValidate, hc, State.accept_eq hw]
  congr 1
  apply State.ext_fields <;> simp [afterRejection, hs]

/-- What the UPDATE phase of a plan shows on the trace. -/
def Plan.early (p : Plan) : List Event := if p.update.isSome then [Event.phase .update] else []

/-- The mirror after the UPDATE phase of a plan. -/
def Plan.updated (p : Plan) (m : Mirror) : Mirror := (p.update.getD id) m

/-- An accepted operation whose check passes: the whole transaction. -/
theorem transact_accepted {i : Instr} {w : CmdWord} {p : Plan} {s : State}
    (hs : s.phase = .idle) (hw : encode i = .cmd w) (hc : p.check = none) :
    transact i p s = .next (afterTransaction w
      (frameBytes (p.payload (p.updated s.mirror)).command (p.payload (p.updated s.mirror)).mask
        (p.payload (p.updated s.mirror)).p1 (p.payload (p.updated s.mirror)).p2)
      p.early (p.updated s.mirror) p.reply s) := by
  rw [transact, whenAccepted_idle hs, Plan.fromValidate, hc, State.accept_eq hw]
  congr 1
  simp only [Plan.fromUpdate]
  cases hu : p.update <;> simp only [] <;> rw [fromTx_eq _ _ (by simp)] <;>
    simp only [afterTransaction, State.nextAnswer_setPhase, State.nextAnswer_applyReport] <;>
    rw [show State.nextAnswer { s with cmdReg := w } = s.nextAnswer from rfl] <;>
    cases s.nextAnswer <;> apply State.ext_fields <;>
    simp [Plan.early, Plan.updated, hu, hs, State.waiting, State.nextArrival]

/-- One frame of INIT: taken, or refused. -/
theorem initSync_eq (f : Payload) (go : State → State) (s : State) (h : s.phase = .init) :
    initSync f go s =
      match s.nextAnswer with
      | .ok => go { s with
          mirror := drainMirror s.waiting s.mirror
          txAnswers := s.txAnswers.tail, rxQueue := [], arrivals := s.arrivals.tail
          rxAnswers := s.rxAnswers.drop s.waiting.length
          trace := s.trace ++ [Event.tx (frameBytes f.command f.mask f.p1 f.p2) .ok] ++ drainDiags s.waiting }
      | .error => afterInitFailure (frameBytes f.command f.mask f.p1 f.p2) s := by
  unfold initSync
  rw [sendAndSync_eq]
  cases hn : s.nextAnswer
  · simp only []
    congr 1
    apply State.ext_fields <;> simp [txWrite, drain_settle_eq, encodeFrame_eq, h, hn, State.waiting, State.nextArrival]
  · apply State.ext_fields <;>
      simp [txWrite, initFails, afterInitFailure, encodeFrame_eq, h, hn]

end Sys2Proof.Machine
end

