-- ==== Sys2Proof/Laws/Ports.lean ====
section
/-! SUPPORT. The output ports read off the trace, and a whole transaction in their terms. -/

namespace Sys2Proof.Machine

/-! ## What each event puts on each port, and the diagnostics of a drain -/

@[simp] theorem txOf_phase (p : Phase) : txOf (.phase p) = none := rfl
@[simp] theorem txOf_tx (f : List Byte) (a : TxAnswer) : txOf (.tx f a) = some (f, a) := rfl
@[simp] theorem txOf_diag (d : Diag) : txOf (.diag d) = none := rfl
@[simp] theorem txOf_result (c : ResCode) (d : ResData) : txOf (.result c d) = none := rfl
@[simp] theorem txOf_closePulse : txOf .closePulse = none := rfl
@[simp] theorem txOf_codecOut (o : CodecOut) : txOf (.codecOut o) = none := rfl
@[simp] theorem diagOf_phase (p : Phase) : diagOf (.phase p) = none := rfl
@[simp] theorem diagOf_tx (f : List Byte) (a : TxAnswer) : diagOf (.tx f a) = none := rfl
@[simp] theorem diagOf_diag (d : Diag) : diagOf (.diag d) = some d := rfl
@[simp] theorem diagOf_result (c : ResCode) (d : ResData) : diagOf (.result c d) = none := rfl
@[simp] theorem diagOf_closePulse : diagOf .closePulse = none := rfl
@[simp] theorem diagOf_codecOut (o : CodecOut) : diagOf (.codecOut o) = none := rfl
@[simp] theorem resultOf_phase (p : Phase) : resultOf (.phase p) = none := rfl
@[simp] theorem resultOf_tx (f : List Byte) (a : TxAnswer) : resultOf (.tx f a) = none := rfl
@[simp] theorem resultOf_diag (d : Diag) : resultOf (.diag d) = none := rfl
@[simp] theorem resultOf_result (c : ResCode) (d : ResData) : resultOf (.result c d) = some (c, d) := rfl
@[simp] theorem resultOf_closePulse : resultOf .closePulse = none := rfl
@[simp] theorem resultOf_codecOut (o : CodecOut) : resultOf (.codecOut o) = none := rfl

@[simp] theorem filterMap_diag_drain (bufs : List (List Byte)) :
    (drainDiags bufs).filterMap diagOf = bufs.flatMap diagsOf := by
  rw [drainDiags, List.filterMap_map]
  show List.filterMap some _ = _
  exact List.filterMap_some

@[simp] theorem filterMap_tx_drain (bufs : List (List Byte)) : (drainDiags bufs).filterMap txOf = [] := by
  simp [drainDiags, List.filterMap_map]

@[simp] theorem filterMap_result_drain (bufs : List (List Byte)) : (drainDiags bufs).filterMap resultOf = [] := by
  simp [drainDiags, List.filterMap_map]

@[simp] theorem count_closePulse_drain (bufs : List (List Byte)) :
    (drainDiags bufs).count Event.closePulse = 0 := by
  simp [drainDiags, List.count_eq_zero]

/-! ## A transaction and a rejection in the ports' terms -/

/-- The whole transaction is what claims call one. -/
theorem transacts_afterTransaction {w : CmdWord} {frame : List Byte} {early : List Event} {r : Mirror}
    {data : Mirror → ResData} {s : State} (he : early = [] ∨ early = [Event.phase .update]) :
    Transacts frame r data s (afterTransaction w frame early r data s) := by
  rcases he with rfl | rfl <;> cases hn : s.nextAnswer <;>
    simp [Transacts, SameInputs, Drained, SameReceive, afterTransaction, hn, sentFrames, diagnostics, results, closePulses,
      List.filterMap_append, List.filterMap_cons, List.count_append]

/-- The rejection is what claims call one. -/
theorem rejects_afterRejection {w : CmdWord} {code : ResCode} {s : State} (hs : s.phase = .idle) :
    Rejects code s (afterRejection w code s) := by
  simp [Rejects, SameInputs, SameReceive, afterRejection, sentFrames, diagnostics, results, closePulses, hs,
    List.filterMap_append, List.filterMap_cons, List.count_append]

/-- What a plan without a local update leaves, in the ports' terms. -/
theorem transact_transacts {i : Instr} {w : CmdWord} {p : Plan} {s : State}
    (hs : s.phase = .idle) (hw : encode i = .cmd w) (hc : p.check = none) :
    ∃ t, transact i p s = .next t ∧
      Transacts (frameBytes (p.payload (p.updated s.mirror)).command (p.payload (p.updated s.mirror)).mask
        (p.payload (p.updated s.mirror)).p1 (p.payload (p.updated s.mirror)).p2)
        (p.updated s.mirror) p.reply s t := by
  refine ⟨_, transact_accepted hs hw hc, transacts_afterTransaction ?_⟩
  unfold Plan.early
  split <;> simp

/-- What a failed check leaves, in the ports' terms. -/
theorem transact_rejects {i : Instr} {w : CmdWord} {p : Plan} {e : ResCode} {s : State}
    (hs : s.phase = .idle) (hw : encode i = .cmd w) (hc : p.check = some e) :
    ∃ t, transact i p s = .next t ∧ Rejects e s t :=
  ⟨_, transact_rejected hs hw hc, rejects_afterRejection hs⟩

end Sys2Proof.Machine
end

