-- ==== Sys2Proof/Laws/Step.lean ====
section
/-! SUPPORT. A run of the machine, one step at a time. -/

namespace Sys2Proof.Machine

/-- A run of any machine peels off one step. -/
theorem run_next (M : Host.Core) {k : Nat} {s t : M.State} (h : M.step s = .next t) :
    M.run (k + 1) s = M.run k t := by
  simp [Host.Core.run, h]

/-- A run of this machine peels off one step. -/
theorem core_run_next {k : Nat} {s t : State} (h : step s = .next t) :
    Sys2Proof.core.run (k + 1) s = Sys2Proof.core.run k t :=
  run_next Sys2Proof.core h

/-- A row with a plan, outside INIT, is that plan's transaction. -/
theorem exec_planned {i : Instr} {p : Plan} {s : State} (hp : planOf i = some p) (h : s.phase ≠ .init) :
    exec i s = transact i p s := by
  cases i <;> simp [planOf] at hp <;> subst hp <;>
    first
      | rfl
      | simp [exec, execQueryRelayStatus, execQueryButtonMode, h]

/-- A row with a plan stands at the command port. -/
theorem encode_planned {i : Instr} {p : Plan} (hp : planOf i = some p) : ∃ w, encode i = .cmd w := by
  cases i with
  | startTimer id secs => cases secs <;> exact ⟨_, rfl⟩
  | _ => first | exact ⟨_, rfl⟩ | simp [planOf] at hp

end Sys2Proof.Machine
end

