-- ==== Sys2Proof/Laws/Inversion.lean ====
section
/-! SUPPORT. Everything a step can do, said once: later proofs take a step apart by cases on `StepDoes`
and never unfold it. -/

namespace Sys2Proof.Machine

/-! ## The marker warning and the responses -/

/-- The warning of R92 in the words of claims. -/
theorem warnMarkers_eq (a b : Byte) (s : State) :
    s.warnMarkers a b = { s with trace := s.trace ++ markerEvents a b } := by
  unfold State.warnMarkers markerEvents
  by_cases h : a ≠ Config.stx ∨ b ≠ Config.etx
  · rw [if_pos h, if_pos (by simpa [Config.stx, Config.etx] using h)]; rfl
  · rw [if_neg h, if_neg (by simpa [Config.stx, Config.etx] using h)]; simp

/-- The row a buffer of a drain is decoded to does what RxProcess does with the buffer. -/
theorem exec_decodeRx {buf : List Byte} {i : Instr} (h : decodeRx buf = .instr i) (s : State) :
    exec i s = .next (rxProcess buf s) := by
  rcases seven_or_not buf with ⟨b0, c, m, p, q, k, b6, rfl⟩ | hl
  · simp only [decodeRx] at h
    by_cases hk : k = checksum c m p q
    · simp only [hk, if_true, Decoded.instr.injEq, responseOf] at h
      subst h
      simp only [hk, rxProcess, dispatch]
      split_ifs <;> simp_all [exec, execRspButtonMode, execRspTimerDelay, execRspButtonStatus,
        execRspRelayStatus, execRspJumper, execRspFirmware, execRspUnknown]
    · simp [hk] at h
  · simp [decodeRx_length hl] at h

/-! ## The end of an operation -/

/-- What an operation with plan p can put on the outputs. -/
def Plan.Shows (p : Plan) : Event → Prop
  | .phase _ => True
  | .diag _ => True
  | .tx f _ => ∃ m, f = frameBytes (p.payload m).command (p.payload m).mask (p.payload m).p1 (p.payload m).p2
  | .result c _ => c = .ok ∨ c = .errTransport ∨ p.check = some c
  | .closePulse => False
  | .codecOut _ => False

/-- What is common to every way an operation with plan p goes from where it stands to IDLE. -/
structure Finishes (p : Plan) (s t : State) : Prop where
  phase  : t.phase = .idle
  closed : t.closed = s.closed
  initAt : t.initAt = s.initAt
  rst    : t.rst = s.rst
  cmds   : t.cmds = s.cmds
  codec  : t.codec = s.codec
  mirror : ∃ bufs, (∀ b ∈ bufs, b ∈ s.waiting) ∧
    (t.mirror = drainMirror bufs s.mirror ∨ ∃ u, p.update = some u ∧ t.mirror = drainMirror bufs (u s.mirror))
  trace  : ∃ evs, t.trace = s.trace ++ evs ∧ ∀ e ∈ evs, p.Shows e

/-- The diagnostics of a drain are shown by any plan. -/
theorem shows_drain (p : Plan) (bufs : List (List Byte)) : ∀ e ∈ drainDiags bufs, p.Shows e := by
  intro e he
  simp only [drainDiags, List.mem_map] at he
  obtain ⟨d, -, rfl⟩ := he
  trivial

/-- From TX. -/
theorem finishes_fromTx (p : Plan) (s : State) (h : s.phase ≠ .init) : Finishes p s (p.fromTx s) := by
  rw [fromTx_eq p s h]
  cases s.nextAnswer <;> dsimp only
  · refine ⟨rfl, rfl, rfl, rfl, rfl, rfl, ⟨s.waiting, fun _ h => h, .inl rfl⟩, ?_⟩
    refine ⟨(if s.phase = .tx then [] else [Event.phase .tx]) ++ [Event.tx (frameBytes (p.payload s.mirror).command
      (p.payload s.mirror).mask (p.payload s.mirror).p1 (p.payload s.mirror).p2) .ok, Event.phase .settle,
      Event.phase .drain] ++ drainDiags s.waiting ++
      [Event.phase .idle, Event.result .ok (p.reply (drainMirror s.waiting s.mirror))],
      by simp only [List.append_assoc], ?_⟩
    intro e he
    simp only [List.mem_append, List.mem_cons, List.not_mem_nil, or_false] at he
    rcases he with ((he | rfl | rfl | rfl) | he) | rfl | rfl
    · split at he <;> simp at he; subst he; trivial
    · exact ⟨s.mirror, rfl⟩
    · trivial
    · trivial
    · exact shows_drain p _ e he
    · trivial
    · exact .inl rfl
  · refine ⟨rfl, rfl, rfl, rfl, rfl, rfl, ⟨[], by simp, .inl rfl⟩, ?_⟩
    refine ⟨(if s.phase = .tx then [] else [Event.phase .tx]) ++
      [Event.tx (frameBytes (p.payload s.mirror).command (p.payload s.mirror).mask (p.payload s.mirror).p1
        (p.payload s.mirror).p2) .error, Event.phase .idle, Event.result .errTransport .none],
      by simp only [List.append_assoc], ?_⟩
    intro e he
    simp only [List.mem_append, List.mem_cons, List.not_mem_nil, or_false] at he
    rcases he with he | rfl | rfl | rfl
    · split at he <;> simp at he; subst he; trivial
    · exact ⟨s.mirror, rfl⟩
    · trivial
    · exact .inr (.inl rfl)

/-- An operation ends from a state that has moved on without showing anything but a phase. -/
theorem Finishes.after {p : Plan} {s r t : State} (h : Finishes p r t) (hm : r.mirror = s.mirror ∨
      ∃ u, p.update = some u ∧ r.mirror = u s.mirror ∧ ∃ bufs, (∀ b ∈ bufs, b ∈ r.waiting) ∧
        t.mirror = drainMirror bufs r.mirror)
    (h1 : r.closed = s.closed) (h2 : r.initAt = s.initAt) (h3 : r.rst = s.rst) (h4 : r.cmds = s.cmds)
    (h5 : r.codec = s.codec) (h6 : r.rxQueue = s.rxQueue ∧ r.arrivals = s.arrivals ∧ r.rxAnswers = s.rxAnswers)
    (ht : ∃ evs, r.trace = s.trace ++ evs ∧ ∀ e ∈ evs, p.Shows e) : Finishes p s t := by
  have hw := State.waiting_congr h6.1 h6.2.1 h6.2.2
  obtain ⟨e1, he1, ha1⟩ := ht
  obtain ⟨e2, he2, ha2⟩ := h.trace
  refine ⟨h.phase, h.closed.trans h1, h.initAt.trans h2, h.rst.trans h3, h.cmds.trans h4,
    h.codec.trans h5, ?_, e1 ++ e2, by rw [he2, he1, List.append_assoc], ?_⟩
  · rcases hm with hm | ⟨u, hu, hum, bufs, hb, hbm⟩
    · rw [← hw, ← hm]; exact h.mirror
    · rw [hw] at hb; rw [hum] at hbm; exact ⟨bufs, hb, .inr ⟨u, hu, hbm⟩⟩
  · intro e he
    rcases List.mem_append.mp he with he | he
    · exact ha1 e he
    · exact ha2 e he

/-- A phase change shows a phase at most. -/
theorem setPhase_shows (p : Plan) (q : Phase) (s : State) :
    ∃ evs, (s.setPhase q).trace = s.trace ++ evs ∧ ∀ e ∈ evs, p.Shows e := by
  refine ⟨if s.phase = q then [] else [Event.phase q], by simp, ?_⟩
  intro e he
  split at he <;> simp at he
  subst he; trivial

/-- From TX, the mirror is a drain's fold of what it was. -/
theorem fromTx_mirror (p : Plan) (s : State) (h : s.phase ≠ .init) :
    ∃ bufs, (∀ b ∈ bufs, b ∈ s.waiting) ∧ (p.fromTx s).mirror = drainMirror bufs s.mirror := by
  rw [fromTx_eq p s h]
  cases s.nextAnswer
  · exact ⟨s.waiting, fun _ h => h, rfl⟩
  · exact ⟨[], by simp, rfl⟩

/-- From UPDATE. -/
theorem finishes_fromUpdate (p : Plan) (s : State) (h : s.phase ≠ .init) : Finishes p s (p.fromUpdate s) := by
  unfold Plan.fromUpdate
  cases hu : p.update with
  | none => exact finishes_fromTx p s h
  | some u =>
    show Finishes p s (p.fromTx ((s.setPhase .update).applyReport u))
    exact (finishes_fromTx p ((s.setPhase .update).applyReport u) (by simp)).after
      (.inr ⟨u, hu, by simp, fromTx_mirror p _ (by simp)⟩) (by simp) (by simp) (by simp) (by simp) (by simp)
      (by simp) (by simpa using setPhase_shows p .update s)

/-- From VALIDATE. -/
theorem finishes_fromValidate (p : Plan) (s : State) :
    Finishes p s (p.fromValidate s) := by
  unfold Plan.fromValidate
  cases hc : p.check with
  | none =>
    show Finishes p s (p.fromUpdate (s.setPhase .validate))
    exact (finishes_fromUpdate p (s.setPhase .validate) (by simp)).after (.inl (by simp)) (by simp)
      (by simp) (by simp) (by simp) (by simp) (by simp) (setPhase_shows p .validate s)
  | some e =>
    show Finishes p s ((s.setPhase .validate).endWith e .none)
    obtain ⟨evs, h1, h2⟩ := setPhase_shows p .validate s
    refine ⟨by simp, by simp, by simp, by simp, by simp, by simp,
      ⟨[], by simp, .inl (by simp [drainMirror])⟩, evs ++ [Event.phase .idle, Event.result e .none], ?_, ?_⟩
    · rw [State.endWith_trace, h1]; simp
    · intro x hx
      simp only [List.mem_append, List.mem_cons, List.not_mem_nil, or_false] at hx
      rcases hx with hx | rfl | rfl
      · exact h2 x hx
      · trivial
      · exact .inr (.inr hc)

/-- SETTLE to the end of an operation. -/
theorem afterWrite_eq (p : Plan) (s : State) (h : s.phase = .settle) :
    p.afterWrite s =
      { s with
        mirror := drainMirror s.waiting s.mirror, phase := .idle, rxQueue := [], arrivals := s.arrivals.tail
        rxAnswers := s.rxAnswers.drop s.waiting.length
        trace := s.trace ++ ([Event.phase .drain] ++ drainDiags s.waiting ++
          [Event.phase .idle, Event.result .ok (p.reply (drainMirror s.waiting s.mirror))]) } := by
  unfold Plan.afterWrite
  rw [drain_settle_eq]
  apply State.ext_fields <;> simp [h]

/-- From SETTLE. -/
theorem finishes_afterWrite (p : Plan) (s : State) (h : s.phase = .settle) : Finishes p s (p.afterWrite s) := by
  rw [afterWrite_eq p s h]
  refine ⟨rfl, rfl, rfl, rfl, rfl, rfl, ⟨s.waiting, fun _ h => h, .inl rfl⟩, _, rfl, ?_⟩
  intro e he
  simp only [List.mem_append, List.mem_cons, List.not_mem_nil, or_false] at he
  rcases he with (rfl | he) | rfl | rfl
  · trivial
  · exact shows_drain p _ e he
  · trivial
  · exact .inl rfl

/-- The sequencer's own moves: the operation in progress ends. -/
theorem resume_finishes {s t : State} (h : resume s = .next t) (hm : midOperation s.phase = true) :
    ∃ p, currentPlan s = some p ∧ Finishes p s t := by
  unfold resume at h
  split at h
  · cases h
  · rename_i p hp
    refine ⟨p, hp, ?_⟩
    cases hph : s.phase <;> simp only [hph] at h <;>
      first | (simp [hph, midOperation] at hm; done) | (cases h)
    · exact finishes_fromValidate p s
    · exact finishes_fromUpdate p s (by simp [hph])
    · exact finishes_fromTx p s (by simp [hph])
    · exact finishes_afterWrite p s hph
    · refine ⟨by simp, by simp, by simp, by simp, by simp, by simp,
        ⟨[], by simp, .inl (by simp [drainMirror])⟩, [Event.phase .idle, Event.result .ok (p.reply s.mirror)],
        by simp [hph], ?_⟩
      intro e he
      simp only [List.mem_cons, List.not_mem_nil, or_false] at he
      rcases he with rfl | rfl
      · trivial
      · exact .inl rfl

/-! ## A command -/

/-- Everything an accepted, waiting or repeated command can do. -/
inductive CommandDoes (i : Instr) (s : State) : State → Prop
  /-- An operation with a plan, from IDLE to IDLE. -/
  | operation {p : Plan} {t : State} (hs : s.phase = .idle) (hp : planOf i = some p) (h : Finishes p s t) :
      CommandDoes i s t
  /-- A pure read. -/
  | read (hs : s.phase = .idle) (hp : planOf i = none) (d : ResData) :
      CommandDoes i s { s with trace := s.trace ++ [Event.result .ok d] }
  /-- CLOSE. -/
  | close (hs : s.phase = .idle) (hi : i = .close) :
      CommandDoes i s { s with
        closed := true, phase := .closed, trace := s.trace ++ [Event.closePulse, Event.phase .closed, Event.result .ok .none] }
  /-- CLOSE once more. -/
  | closeAgain (hs : s.phase = .closed) (hi : i = .close) :
      CommandDoes i s { s with trace := s.trace ++ [Event.result .ok .none] }

/-- A plan's transaction from IDLE. -/
theorem transact_finishes (i : Instr) (p : Plan) {s : State} (hs : s.phase = .idle) :
    ∃ t, transact i p s = .next t ∧ Finishes p s t := by
  rw [transact, whenAccepted_idle hs]
  refine ⟨_, rfl, (finishes_fromValidate p (s.accept i)).after (.inl (by simp)) (by simp)
    (by simp) (by simp) (by simp) (by simp) (by simp) ⟨[], by simp, by simp⟩⟩

/-- The three commands without a plan. -/
theorem command_unplanned {w : CmdWord} (hp : planOf (decodeCmd w) = none) :
    (∃ id, decodeCmd w = .readRelay id) ∨ (∃ id, decodeCmd w = .readButton id) ∨ decodeCmd w = .close := by
  revert hp
  unfold decodeCmd
  split <;> simp [planOf]

/-- A command in IDLE completes. -/
theorem command_idle (w : CmdWord) {s : State} (hs : s.phase = .idle) :
    ∃ t, exec (decodeCmd w) s = .next t ∧ CommandDoes (decodeCmd w) s t := by
  have hi : s.phase ≠ .init := by simp [hs]
  cases hp : planOf (decodeCmd w) with
  | some p =>
    obtain ⟨t, h1, h2⟩ := transact_finishes (decodeCmd w) p hs
    exact ⟨t, by rw [exec_planned hp hi, h1], .operation hs hp h2⟩
  | none =>
    rcases command_unplanned hp with ⟨id, h⟩ | ⟨id, h⟩ | h
    · rw [h] at hp ⊢
      exact ⟨_, whenAccepted_idle hs _, .read hs hp _⟩
    · rw [h] at hp ⊢
      exact ⟨_, whenAccepted_idle hs _, .read hs hp _⟩
    · rw [h]
      refine ⟨_, ?_, .close hs rfl⟩
      simp [exec, execClose, hs, whenAccepted, closeUnit, transportClose, State.emit, State.setPhase]

/-- A command in CLOSED: CLOSE completes, every other is refused. -/
theorem command_closed (w : CmdWord) {s : State} (hs : s.phase = .closed) :
    (decodeCmd w = .close ∧ exec (decodeCmd w) s = .next { s with trace := s.trace ++ [Event.result .ok .none] }) ∨
    (decodeCmd w ≠ .close ∧ exec (decodeCmd w) s = .refused .afterClose) := by
  have hi : s.phase ≠ .init := by simp [hs]
  have hr : ∀ run : State → State, whenAccepted s run = .refused .afterClose := by simp [whenAccepted, hs]
  cases hp : planOf (decodeCmd w) with
  | some p =>
    refine .inr ⟨by rintro h; simp [h, planOf] at hp, by rw [exec_planned hp hi, transact, hr]⟩
  | none =>
    rcases command_unplanned hp with ⟨id, h⟩ | ⟨id, h⟩ | h <;> rw [h]
    · exact .inr ⟨by simp, hr _⟩
    · exact .inr ⟨by simp, hr _⟩
    · exact .inl ⟨rfl, by simp [exec, execClose, hs, State.emit]⟩

/-- While an operation is in progress nothing is accepted. -/
theorem whenAccepted_waits {s : State} (hs : midOperation s.phase = true) (run : State → State) :
    whenAccepted s run = .next s := by
  unfold whenAccepted
  cases h : s.phase <;> first | rfl | simp [h, midOperation] at hs

/-- A command while an operation is in progress waits. -/
theorem command_waits (w : CmdWord) {s : State} (hs : midOperation s.phase = true) :
    exec (decodeCmd w) s = .next s := by
  have hi : s.phase ≠ .init := by intro h; simp [h, midOperation] at hs
  have hc : s.phase ≠ .closed := by intro h; simp [h, midOperation] at hs
  cases hp : planOf (decodeCmd w) with
  | some p => rw [exec_planned hp hi, transact, whenAccepted_waits hs]
  | none =>
    rcases command_unplanned hp with ⟨id, h⟩ | ⟨id, h⟩ | h <;> rw [h]
    · exact whenAccepted_waits hs _
    · exact whenAccepted_waits hs _
    · simp only [exec, execClose, if_neg hc, whenAccepted_waits hs]

/-! ## INIT -/

/-- The frame of each place of INIT (R147). -/
def initFrame : InitSlot → List Byte
  | .relayStatus => frameBytes 0x18#8 0x00#8 0x00#8 0x00#8
  | .buttonMode => frameBytes 0x22#8 0x00#8 0x00#8 0x00#8
  | .timerDelay => frameBytes 0x44#8 0xFF#8 0x00#8 0x00#8

/-- The state after a frame of INIT that the transport takes. -/
def initTaken (s : State) : State :=
  match s.initAt with
  | .relayStatus => afterInitFrame (initFrame .relayStatus) .buttonMode s
  | .buttonMode => afterInitFrame (initFrame .buttonMode) .timerDelay s
  | .timerDelay =>
    { afterInitFrame (initFrame .timerDelay) .relayStatus s with
      phase := .idle
      trace := (afterInitFrame (initFrame .timerDelay) .relayStatus s).trace ++ [Event.phase .idle] }

/-- A frame of INIT: taken, or refused. -/
theorem init_step {s : State} (h : s.phase = .init) :
    exec (initInstr s.initAt) s =
      match s.nextAnswer with
      | .ok => .next (initTaken s)
      | .error => .next (afterInitFailure (initFrame s.initAt) s) := by
  cases ha : s.initAt <;> cases hn : s.nextAnswer <;>
    simp [initInstr, exec, execQueryRelayStatus, execQueryButtonMode, execInitQueryTimerDelay, h, ha,
      initSync_eq, hn, initTaken, initFrame, afterInitFrame, initDone, State.setPhase, zeroed]

/-! ## A step -/

/-- Everything a step can do. -/
inductive StepDoes (s : State) : State → Prop
  /-- Reset. -/
  | reset (h : s.rst = true) : StepDoes s s.applyReset
  /-- The codec's ports. -/
  | codec {q : CodecIn} {later : List CodecIn} (hr : s.rst = false) (h : s.codec = q :: later) (o : CodecOut) :
      StepDoes s { s with codec := later, trace := s.trace ++ [Event.codecOut o] }
  /-- A command from IDLE or CLOSED. -/
  | command {w : CmdWord} {later : List CmdWord} {t : State} (hr : s.rst = false) (hq : s.codec = [])
      (hs : s.phase = .idle ∨ s.phase = .closed) (h : s.cmds = w :: later)
      (hx : exec (decodeCmd w) { s with cmds := later } = .next t)
      (hd : CommandDoes (decodeCmd w) { s with cmds := later } t) : StepDoes s t
  /-- Nothing is presented. -/
  | wait (hr : s.rst = false) (hq : s.codec = []) (hs : s.phase = .idle ∨ s.phase = .closed)
      (h : s.cmds = []) : StepDoes s s
  /-- A buffer of the drain in progress. -/
  | buffer (hr : s.rst = false) (hq : s.codec = []) (hs : s.phase = .drain) (h : s.rxQueue ≠ []) :
      StepDoes s { s.afterRead with
        mirror := mirrorAfter s.nextRead s.mirror
        trace := s.trace ++ (diagsOf s.nextRead).map .diag }
  /-- The operation in progress ends. -/
  | resume {p : Plan} {t : State} (hr : s.rst = false) (hq : s.codec = []) (hs : midOperation s.phase = true)
      (hp : currentPlan s = some p) (h : Finishes p s t) : StepDoes s t
  /-- A frame of INIT. -/
  | init (hr : s.rst = false) (hq : s.codec = []) (hs : s.phase = .init) (ha : s.nextAnswer = .ok) :
      StepDoes s (initTaken s)
  /-- A frame of INIT that fails. -/
  | initFails (hr : s.rst = false) (hq : s.codec = []) (hs : s.phase = .init) (ha : s.nextAnswer = .error) :
      StepDoes s (afterInitFailure (initFrame s.initAt) s)

/-- The codec's rows put their answer on the codec's ports. -/
theorem codec_step (q : CodecIn) (s : State) :
    ∃ o, exec (decodeCodec q) s = .next { s with trace := s.trace ++ [Event.codecOut o] } := by
  cases q <;> exact ⟨_, rfl⟩

/-- The next buffer of the drain in progress, while bytes wait. -/
theorem step_buffer {s : State} (hr : s.rst = false) (hq : s.codec = []) (hs : s.phase = .drain)
    (h : s.rxQueue ≠ []) :
    step s = .next (rxProcess s.nextRead s.afterRead) := by
  have ha : ¬ rxAvail s = 0 := by simpa [rxAvail] using h
  have hf : fetch s = fetchResponse s := by simp [fetch, hr, hq, fetchByPhase, hs]
  rw [step, hf, fetchResponse, if_neg ha]
  cases hd : decodeRx (rxRead Config.rxChunk s).1 with
  | instr i => exact exec_decodeRx hd _
  | reject r => rfl

/-- A drain in progress with no byte left. -/
theorem step_drained {s : State} (hr : s.rst = false) (hq : s.codec = []) (hs : s.phase = .drain)
    (h : s.rxQueue = []) : step s = resume s := by
  simp [step, fetch, hr, hq, fetchByPhase, hs, fetchResponse, rxAvail, h]

/-- Inversion of a step that answers a next state. -/
theorem step_does {s t : State} (h : step s = .next t) : StepDoes s t := by
  cases hr : s.rst with
  | true =>
    have : step s = .next s.applyReset := by simp [step, fetch, hr]
    rw [this] at h; cases h; exact .reset hr
  | false =>
    cases hq : s.codec with
    | cons q later =>
      obtain ⟨o, ho⟩ := codec_step q { s with codec := later }
      have : step s = .next { s with codec := later, trace := s.trace ++ [Event.codecOut o] } := by
        simpa [step, fetch, hr, hq] using ho
      rw [this] at h; cases h; exact .codec hr hq o
    | nil =>
      have hf : fetch s = fetchByPhase s := by simp [fetch, hr, hq]
      have hmid : midOperation s.phase = true → s.phase ≠ .drain → step s = resume s := by
        intro hm hd
        cases hp : s.phase <;> simp [hp, midOperation] at hm hd <;> simp [step, hf, fetchByPhase, hp]
      have hcmd : (s.phase = .idle ∨ s.phase = .closed) → StepDoes s t := by
        intro hs
        have hf2 : fetch s = fetchCommand s := by
          rcases hs with hs | hs <;> simp [hf, fetchByPhase, hs]
        cases hc : s.cmds with
        | nil =>
          have : step s = .next s := by simp [step, hf2, fetchCommand, hc]
          rw [this] at h; cases h; exact .wait hr hq hs hc
        | cons w later =>
          have hx : step s = exec (decodeCmd w) { s with cmds := later } := by simp [step, hf2, fetchCommand, hc]
          rw [hx] at h
          refine .command hr hq hs hc h ?_
          rcases hs with hs | hs
          · obtain ⟨t', h1, h2⟩ := command_idle w (s := { s with cmds := later }) hs
            rw [h1] at h; cases h; exact h2
          · rcases command_closed w (s := { s with cmds := later }) hs with ⟨h1, h2⟩ | ⟨h1, h2⟩
            · rw [h2] at h; cases h; exact .closeAgain hs h1
            · rw [h2] at h; cases h
      have hres : midOperation s.phase = true → s.phase ≠ .drain → StepDoes s t := by
        intro hm hd
        rw [hmid hm hd] at h
        obtain ⟨p, hp, hfin⟩ := resume_finishes h hm
        exact .resume hr hq hm hp hfin
      cases hs : s.phase with
      | idle => exact hcmd (.inl hs)
      | closed => exact hcmd (.inr hs)
      | init =>
        have hx : step s = exec (initInstr s.initAt) s := by simp [step, hf, fetchByPhase, hs]
        rw [hx, init_step hs] at h
        cases hn : s.nextAnswer <;> simp only [hn] at h <;> cases h
        · exact .init hr hq hs hn
        · exact .initFails hr hq hs hn
      | drain =>
        by_cases hn : s.rxQueue = []
        · rw [step_drained hr hq hs hn] at h
          have hm : midOperation s.phase = true := by rw [hs]; rfl
          obtain ⟨p, hp, hfin⟩ := resume_finishes h hm
          exact .resume hr hq hm hp hfin
        · rw [step_buffer hr hq hs hn, rxProcess_eq] at h
          cases h; exact .buffer hr hq hs hn
      | validate => exact hres (by rw [hs]; rfl) (by simp [hs])
      | update => exact hres (by rw [hs]; rfl) (by simp [hs])
      | tx => exact hres (by rw [hs]; rfl) (by simp [hs])
      | settle => exact hres (by rw [hs]; rfl) (by simp [hs])

end Sys2Proof.Machine
end

