-- ==== Sys2Proof/Laws/Operands.lean ====
section
/-! SUPPORT. Bit fields and masks, bit by bit. -/

namespace Sys2Proof.Machine

/-- The decode of R64 is bit i of the byte. -/
theorem bitOf_eq (v : Byte) (i : Idx) : bitOf v i = v.getLsbD i.val := by
  unfold bitOf
  rw [Bool.eq_iff_iff, beq_iff_eq]
  constructor
  · intro h
    have := congrArg (fun x => BitVec.getLsbD x 0) h
    simpa using this
  · intro h
    apply BitVec.eq_of_getLsbD_eq
    intro j hj
    rcases j with _ | j
    · simpa using h
    · simp

/-- Bit j of `1 << i`. -/
theorem oneBit_getLsbD : ∀ i j : Idx, (1#8 <<< i.val).getLsbD j.val = decide (i = j) := by decide

/-- Bit j of the lane of entity i. -/
theorem lane_getLsbD (f : Idx → Bool) (i j : Idx) :
    (if f i = true then 1#8 <<< i.val else 0).getLsbD j.val = (f i && decide (i = j)) := by
  cases h : f i
  · simp
  · simpa using oneBit_getLsbD i j

/-- Bit i of a mask built from a selection is the selection of i. -/
theorem maskOf_getLsbD (f : Idx → Bool) (j : Idx) : (maskOf f).getLsbD j.val = f j := by
  simp only [maskOf, BitVec.getLsbD_or, lane_getLsbD]
  fin_cases j <;> simp

/-- Two bytes are equal when their bits, indexed by entity, are. -/
theorem byte_ext {a b : Byte} (h : ∀ i : Idx, a.getLsbD i.val = b.getLsbD i.val) : a = b :=
  BitVec.eq_of_getLsbD_eq fun i hi => h ⟨i, hi⟩

/-- Bit i of a mode mask: button i has the mode. -/
theorem modeMask_getLsbD (m : Mirror) (v : Mode) (i : Idx) :
    (modeMask m v).getLsbD i.val = decide ((m.buttons.get i).mode = v) := by
  rw [modeMask, maskOf_getLsbD]
  rfl

end Sys2Proof.Machine
end

