-- ==== Sys2Proof/Laws/PerInstr.lean ====
section
/-! SUPPORT. One family of statements about every instruction as syntax: where its encoding stands and the
code that selects it there, as the rows of spec/opcode_table.json give them. -/

namespace Sys2Proof.Laws.OpSelect

/-- Where an encoding stands and the code that selects its row (R66, R67, R73, R88). -/
inductive Selector where
  | opSelect (code : BitVec 4)
  | initSequence (command : Byte)
  | received (command : Byte)
  | codec
  deriving DecidableEq, Repr

/-- The selector of an encoded instruction. -/
def selector : PortWord → Selector
  | .cmd w => .opSelect w.op
  | .rx buf => .received (buf.getD 1 0)
  | .init frame => .initSequence (frame.getD 1 0)
  | .codec _ => .codec

/-- The selector of the table's row. -/
def rowOf : Instr → Selector
  | .relayOn _ => .opSelect 0x0
  | .relayOff _ => .opSelect 0x1
  | .relayToggle _ => .opSelect 0x2
  | .startTimer _ _ => .opSelect 0x3
  | .setDelay _ _ => .opSelect 0x4
  | .setButtonMode _ _ => .opSelect 0x5
  | .queryRelayStatus => .opSelect 0x6
  | .queryButtonMode => .opSelect 0x7
  | .queryJumper => .opSelect 0x8
  | .queryFirmware => .opSelect 0x9
  | .factoryReset => .opSelect 0xA
  | .readFirmwareVersion => .opSelect 0xB
  | .readJumper => .opSelect 0xC
  | .initQueryTimerDelay => .initSequence 0x44#8
  | .rspButtonMode _ _ _ _ _ => .received 0x22#8
  | .rspTimerDelay _ _ _ _ _ => .received 0x44#8
  | .rspButtonStatus _ _ _ _ _ => .received 0x50#8
  | .rspRelayStatus _ _ _ _ _ => .received 0x51#8
  | .rspJumper _ _ _ _ _ => .received 0x70#8
  | .rspFirmware _ _ _ _ _ => .received 0x71#8
  | .rspUnknown _ c _ _ _ _ => .received c
  | .readRelay _ => .opSelect 0xD
  | .readButton _ => .opSelect 0xE
  | .close => .opSelect 0xF
  | .checksum _ _ _ _ => .codec
  | .encode _ _ _ _ => .codec
  | .decode _ => .codec

/-- The encoding of an instruction is selected by its own row's code. -/
def Statement (i : Instr) : Prop := selector (encode i) = rowOf i

theorem relayOn (id : Idx) : Statement (.relayOn id) := rfl
theorem relayOff (id : Idx) : Statement (.relayOff id) := rfl
theorem relayToggle (id : Idx) : Statement (.relayToggle id) := rfl
theorem startTimer (id : Idx) (secs : Option Int) : Statement (.startTimer id secs) := by
  cases secs <;> rfl
theorem setDelay (id : Idx) (secs : Int) : Statement (.setDelay id secs) := rfl
theorem setButtonMode (id : Idx) (code : BitVec 2) : Statement (.setButtonMode id code) := rfl
theorem queryRelayStatus : Statement .queryRelayStatus := rfl
theorem queryButtonMode : Statement .queryButtonMode := rfl
theorem queryJumper : Statement .queryJumper := rfl
theorem queryFirmware : Statement .queryFirmware := rfl
theorem factoryReset : Statement .factoryReset := rfl
theorem readFirmwareVersion : Statement .readFirmwareVersion := rfl
theorem readJumper : Statement .readJumper := rfl
theorem initQueryTimerDelay : Statement .initQueryTimerDelay := rfl
theorem rspButtonMode (s m p q e : Byte) : Statement (.rspButtonMode s m p q e) := rfl
theorem rspTimerDelay (s m p q e : Byte) : Statement (.rspTimerDelay s m p q e) := rfl
theorem rspButtonStatus (s m p q e : Byte) : Statement (.rspButtonStatus s m p q e) := rfl
theorem rspRelayStatus (s m p q e : Byte) : Statement (.rspRelayStatus s m p q e) := rfl
theorem rspJumper (s m p q e : Byte) : Statement (.rspJumper s m p q e) := rfl
theorem rspFirmware (s m p q e : Byte) : Statement (.rspFirmware s m p q e) := rfl
theorem rspUnknown (s c m p q e : Byte) : Statement (.rspUnknown s c m p q e) := rfl
theorem readRelay (id : Idx) : Statement (.readRelay id) := rfl
theorem readButton (id : Idx) : Statement (.readButton id) := rfl
theorem close : Statement .close := rfl
theorem checksum (c m p q : Byte) : Statement (.checksum c m p q) := rfl
theorem encode (c m p q : Byte) : Statement (.encode c m p q) := rfl
theorem decode (buf : ValidatorIn) : Statement (.decode buf) := rfl

end Sys2Proof.Laws.OpSelect
end

