-- ==== Sys2Proof/Laws/Plans.lean ====
section
/-! SUPPORT. What the plans of the operations have in common, and properties of the mirror that every step
keeps: each induction is packaged once. -/

namespace Sys2Proof.Machine

/-- Two modes share no button. -/
theorem modeMask_disjoint (m : Mirror) {v w : Mode} (h : v ≠ w) : modeMask m v &&& modeMask m w = 0 := by
  apply byte_ext; intro i
  rw [BitVec.getLsbD_and, modeMask_getLsbD, modeMask_getLsbD]
  by_cases h1 : (m.buttons.get i).mode = v <;> simp_all

/-- Every button has a mode. -/
theorem modeMask_cover (m : Mirror) :
    modeMask m .momentary ||| modeMask m .toggle ||| modeMask m .timed = 0xFF#8 := by
  apply byte_ext; intro i
  simp only [BitVec.getLsbD_or, modeMask_getLsbD]
  have : (0xFF#8).getLsbD i.val = true := by revert i; decide
  rw [this]
  cases (m.buttons.get i).mode <;> rfl

/-- Every payload of every plan is a row of the map of transmitted frames. -/
theorem payload_inMap {i : Instr} {p : Plan} (hp : planOf i = some p) (m : Mirror) :
    InCommandMap (p.payload m).command (p.payload m).mask (p.payload m).p1 (p.payload m).p2 := by
  cases i <;> simp [planOf] at hp <;> subst hp <;>
    simp [InCommandMap, planRelayOn, planRelayOff, planRelayToggle, planStartTimer, planSetDelay,
      planSetButtonMode, planQueryRelayStatus, planQueryButtonMode, planQueryJumper, planQueryFirmware,
      planFactoryReset, planReadFirmwareVersion, planReadJumper, zeroed, relayMask, modeMask_disjoint,
      modeMask_cover] <;>
    exact ⟨_, rfl⟩

/-- The error codes a plan's check can give. -/
theorem check_cases {i : Instr} {p : Plan} {c : ResCode} (hp : planOf i = some p) (hc : p.check = some c) :
    c = .errValMode ∨ c = .errValRange := by
  cases i <;> simp [planOf] at hp <;> subst hp <;>
    simp [planRelayOn, planRelayOff, planRelayToggle, planStartTimer, planSetDelay, planSetButtonMode,
      planQueryRelayStatus, planQueryButtonMode, planQueryJumper, planQueryFirmware, planFactoryReset,
      planReadFirmwareVersion, planReadJumper] at hc
  · split at hc <;> simp_all
  · simp_all
  · split at hc <;> simp_all

/-- The two local updates (R116, R118). -/
theorem update_cases {i : Instr} {p : Plan} {u : Mirror → Mirror} (hp : planOf i = some p)
    (hu : p.update = some u) :
    (∃ id secs, i = .setDelay id secs ∧
      u = fun m => m.setRelay id { m.relays.get id with delay := BitVec.ofInt 16 secs }) ∨
    (∃ id code, i = .setButtonMode id code ∧ u = fun m => match modeOfCode code with
      | none => m
      | some v => m.setButton id { m.buttons.get id with mode := v }) := by
  cases i <;> simp [planOf] at hp <;> subst hp <;>
    simp [planRelayOn, planRelayOff, planRelayToggle, planStartTimer, planSetDelay, planSetButtonMode,
      planQueryRelayStatus, planQueryButtonMode, planQueryJumper, planQueryFirmware, planFactoryReset,
      planReadFirmwareVersion, planReadJumper] at hu
  · subst hu; exact .inl ⟨_, _, rfl, rfl⟩
  · subst hu; exact .inr ⟨_, _, rfl, rfl⟩

/-- A property of the mirror that every report keeps is kept by a drain. -/
theorem drainMirror_kept (P : Mirror → Prop) (hr : ∀ c m p q r, P r → P (applyFrame c m p q r))
    (bufs : List (List Byte)) {r : Mirror} (h : P r) : P (drainMirror bufs r) := by
  induction bufs generalizing r with
  | nil => exact h
  | cons b bs ih =>
    refine ih (r := mirrorAfter b r) ?_
    unfold mirrorAfter
    split
    · exact hr _ _ _ _ _ h
    · exact h
    · exact h

/-- A property of the mirror that every report and every local update keeps is kept by every step but a
reset. -/
theorem mirror_kept (P : Mirror → Prop) (hr : ∀ c m p q r, P r → P (applyFrame c m p q r))
    (hu : ∀ {i p u r}, planOf i = some p → p.update = some u → P r → P (u r)) {s t : State}
    (hrst : s.rst = false) (h : step s = .next t) (hP : P s.mirror) : P t.mirror := by
  have fin : ∀ {i p} {t r : State}, Finishes p r t → r.mirror = s.mirror → planOf i = some p → P t.mirror := by
    intro i p t r hf hm hp
    obtain ⟨bufs, -, h | ⟨u, hup, h⟩⟩ := hf.mirror
    · rw [h, hm]; exact drainMirror_kept P hr _ hP
    · rw [h, hm]; exact drainMirror_kept P hr _ (hu hp hup hP)
  cases step_does h with
  | reset g => rw [g] at hrst; cases hrst
  | codec => exact hP
  | command _ _ _ _ _ hd =>
    cases hd with
    | operation _ hp hf => exact fin hf rfl hp
    | read => exact hP
    | close => exact hP
    | closeAgain => exact hP
  | wait => exact hP
  | buffer => exact drainMirror_kept P hr [_] hP
  | resume _ _ _ hp hf => exact fin hf rfl hp
  | init =>
    unfold initTaken
    split <;> exact drainMirror_kept P hr _ hP
  | initFails => exact hP

end Sys2Proof.Machine
end

