-- ==== Sys2Proof/Tests/Slice0.lean ====
section
/-! SUPPORT. Tests: the WellFormed checks, decoding of words written out from the spec's encodings, one-step
vectors of spec/95_test_vectors.md (its sections 2 to 6, cited as S<section>), and for each obligation with
hypotheses a state and operands that meet them. -/

namespace Sys2Proof.Tests

open Sys2Proof.Machine

/-! ## Helpers -/

/-- The unit in IDLE with its registers at reset, the device silent and the transport taking every write. -/
def idle : State := { State.reset with phase := .idle }

/-- Bytes that a transport can hand over in these buffers: an empty one stands for a byte it took and lost. -/
def bytesOf (bufs : List (List Byte)) : List Byte := bufs.flatMap fun b => if b = [] then [0x00#8] else b

/-- The answers with which it does. -/
def answersOf (bufs : List (List Byte)) : List RxAnswer :=
  bufs.map fun b => if b = [] then { takes := 1, gives := 0 } else .full b.length

/-- The idle unit with bytes that arrive in the next settle and are read in these buffers. -/
def idleRx (bufs : List (List Byte)) : State :=
  { idle with arrivals := [bytesOf bufs], rxAnswers := answersOf bufs }

/-- The idle unit with a transport that refuses the next write. -/
def idleTxErr : State := { idle with txAnswers := [.error] }

/-- The unit after CLOSE. -/
def afterClose : State := { idle with phase := .closed, closed := true }

/-- A drain in progress, of QUERY_RELAY_STATUS, with bytes waiting that are read in these buffers. -/
def draining (bufs : List (List Byte)) : State :=
  { idle with phase := .drain, cmdReg := cmdWord 0x6, rxQueue := bytesOf bufs, rxAnswers := answersOf bufs }

/-- What `f` reads in the next state. -/
def after {α : Type} (o : Host.Outcome State Fault Refusal) (f : State → α) : Option α :=
  match o with
  | .next t => some (f t)
  | .fault _ => none
  | .refused _ => none

/-- The reason of a refusal. -/
def refusal (o : Host.Outcome State Fault Refusal) : Option Refusal :=
  match o with
  | .next _ => none
  | .fault _ => none
  | .refused r => some r

/-- The modes in index order, as codes (R16). -/
def modes (t : State) : List (BitVec 2) := (List.finRange 8).map fun i => modeCode (t.mirror.buttons.get i).mode

/-- The delays in index order. -/
def delays (t : State) : List Nat := (List.finRange 8).map fun i => (t.mirror.relays.get i).delay.toNat

/-- The on/off states in index order. -/
def statuses (t : State) : List Bool := (List.finRange 8).map fun i => (t.mirror.relays.get i).status

/-- The timer bits in index order. -/
def timers (t : State) : List Bool := (List.finRange 8).map fun i => (t.mirror.relays.get i).timerActive

/-- The pressed bits and action codes of one button. -/
def buttonOf (i : Idx) (t : State) : Bool × BitVec 2 :=
  ((t.mirror.buttons.get i).pressed, actionCode (t.mirror.buttons.get i).action)

/-- The frames sent and the codes of the results. -/
def sentAndDone (t : State) : List (List Byte) × List ResCode :=
  ((sentFrames t).map Prod.fst, (results t).map Prod.fst)

/-! ## WellFormed: an ill-formed term for each check, and the legal value beside it -/

theorem test_wf_timer_above : (Instr.startTimer 0 (some (2 ^ 31))).wellFormed = false := by decide
theorem test_wf_timer_below : (Instr.startTimer 0 (some (-(2 ^ 31) - 1))).wellFormed = false := by decide
theorem test_wf_timer_ends : (Instr.startTimer 0 (some (2 ^ 31 - 1))).wellFormed = true ∧
    (Instr.startTimer 0 (some (-(2 ^ 31)))).wellFormed = true ∧ (Instr.startTimer 0 none).wellFormed = true := by
  decide
theorem test_wf_delay_above : (Instr.setDelay 0 (2 ^ 31)).wellFormed = false := by decide
theorem test_wf_delay_below : (Instr.setDelay 0 (-(2 ^ 31) - 1)).wellFormed = false := by decide
theorem test_wf_unknown : (responseCodes.all fun c => !(Instr.rspUnknown 0x04#8 c 0 0 0 0x0F#8).wellFormed) = true ∧
    (Instr.rspUnknown 0x04#8 0x52#8 0 0 0 0x0F#8).wellFormed = true := by decide

/-! ## Decoding: words written out from R60, R66, R67, R73 and R147 -/

theorem test_decode_relayOn : decodeTableWord 56 0x04118000006B0F = some (.relayOn 7) := by decide
theorem test_decode_relayOff : decodeTableWord 56 0x0412040000E60F = some (.relayOff 2) := by decide
theorem test_decode_relayToggle : decodeTableWord 56 0x0414200000C80F = some (.relayToggle 5) := by decide
theorem test_decode_startTimer : decodeTableWord 56 0x044108012C860F = some (.startTimer 3 (some 300)) := by decide
theorem test_decode_setDelay : decodeTableWord 56 0x0442101234640F = some (.setDelay 4 4660) := by decide
theorem test_decode_queryRelayStatus : decodeTableWord 56 0x0418000000E40F = some (.queryRelayStatus) := by decide
theorem test_decode_queryButtonMode : decodeTableWord 56 0x0422000000DA0F = some (.queryButtonMode) := by decide
theorem test_decode_queryJumper : decodeTableWord 56 0x04700000008C0F = some (.queryJumper) := by decide
theorem test_decode_queryFirmware : decodeTableWord 56 0x04710000008B0F = some (.queryFirmware) := by decide
theorem test_decode_factoryReset : decodeTableWord 56 0x0466000000960F = some (.factoryReset) := by decide
theorem test_decode_initQueryTimerDelay : decodeTableWord 56 0x0444FF0000B90F = some (.initQueryTimerDelay) := by decide
theorem test_decode_rspButtonMode : decodeTableWord 56 0x042201FE00DB0F = some (.rspButtonMode 0x04#8 0x01#8 0xFE#8 0x00#8 0x0F#8) := by decide
theorem test_decode_rspTimerDelay : decodeTableWord 56 0x0444091234690F = some (.rspTimerDelay 0x04#8 0x09#8 0x12#8 0x34#8 0x0F#8) := by decide
theorem test_decode_rspButtonStatus : decodeTableWord 56 0x0450040400A40F = some (.rspButtonStatus 0x04#8 0x04#8 0x04#8 0x00#8 0x0F#8) := by decide
theorem test_decode_rspRelayStatus : decodeTableWord 56 0x0551000500A60F = some (.rspRelayStatus 0x05#8 0x00#8 0x05#8 0x00#8 0x0F#8) := by decide
theorem test_decode_rspJumper : decodeTableWord 56 0x04700001008B0F = some (.rspJumper 0x04#8 0x00#8 0x01#8 0x00#8 0x0F#8) := by decide
theorem test_decode_rspFirmware : decodeTableWord 56 0x0471001803700F = some (.rspFirmware 0x04#8 0x00#8 0x18#8 0x03#8 0x0F#8) := by decide
theorem test_decode_rspUnknown : decodeTableWord 56 0x0452000000AA0F = some (.rspUnknown 0x04#8 0x52#8 0x00#8 0x00#8 0x00#8 0x0F#8) := by decide
theorem test_decode_bad_checksum : decodeTableWord 56 0x0451000500A70F = none := by decide

/-- A command-port word with every field given (R73). -/
def port (op : BitVec 4) (id : BitVec 3) (hasOpnd : Bool) (mode : BitVec 2) (opnd : BitVec 32) : PortWord :=
  .cmd { op := op, id := id, hasOpnd := hasOpnd, mode := mode, opnd := opnd }

theorem test_port_relayOn : decode (port 0x0 7 true 3 9) = .instr (.relayOn 7) := by decide
theorem test_port_relayOff : decode (port 0x1 6 true 3 9) = .instr (.relayOff 6) := by decide
theorem test_port_relayToggle : decode (port 0x2 5 true 3 9) = .instr (.relayToggle 5) := by decide
theorem test_port_startTimer : decode (port 0x3 3 true 0 0xFFFFFFFF) = .instr (.startTimer 3 (some (-1))) := by decide
theorem test_port_startTimer_omitted : decode (port 0x3 3 false 0 300) = .instr (.startTimer 3 none) := by decide
theorem test_port_setDelay : decode (port 0x4 1 false 0 65536) = .instr (.setDelay 1 65536) := by decide
theorem test_port_setButtonMode : decode (port 0x5 3 false 2 0) = .instr (.setButtonMode 3 2) := by decide
theorem test_port_queryRelayStatus : decode (port 0x6 7 true 3 9) = .instr (.queryRelayStatus) := by decide
theorem test_port_queryButtonMode : decode (port 0x7 7 true 3 9) = .instr (.queryButtonMode) := by decide
theorem test_port_queryJumper : decode (port 0x8 7 true 3 9) = .instr (.queryJumper) := by decide
theorem test_port_queryFirmware : decode (port 0x9 7 true 3 9) = .instr (.queryFirmware) := by decide
theorem test_port_factoryReset : decode (port 0xA 7 true 3 9) = .instr (.factoryReset) := by decide
theorem test_port_readFirmwareVersion : decode (port 0xB 0 false 0 0) = .instr (.readFirmwareVersion) := by decide
theorem test_port_readJumper : decode (port 0xC 0 false 0 0) = .instr (.readJumper) := by decide
theorem test_port_readRelay : decode (port 0xD 3 false 0 0) = .instr (.readRelay 3) := by decide
theorem test_port_readButton : decode (port 0xE 2 false 0 0) = .instr (.readButton 2) := by decide
theorem test_port_close : decode (port 0xF 0 false 0 0) = .instr (.close) := by decide
theorem test_port_checksum :
    decode (.codec (.sum 0x10#8 0x32#8 0x45#8 0x17#8)) = .instr (.checksum 0x10#8 0x32#8 0x45#8 0x17#8) := by decide
theorem test_port_encode :
    decode (.codec (.enc 0x11#8 0x01#8 0x00#8 0x00#8)) = .instr (.encode 0x11#8 0x01#8 0x00#8 0x00#8) := by decide
theorem test_port_decode :
    decode (.codec (.dec { len := 1, bits := 0x04FFFFFFFFFFFF#56 })) =
      .instr (.decode { len := 1, bits := 0x04FFFFFFFFFFFF#56 }) := by decide
theorem test_table_word_runs_first :
    after (step (State.reset.withFetchWord 56 0x0412040000E60F)) sentAndDone =
      some ([[0x04#8, 0x12#8, 0x04#8, 0x00#8, 0x00#8, 0xE6#8, 0x0F#8]], [.ok]) := by decide

/-! ## The codec (S2) -/

theorem test_checksum_s1 : checksum 0x10#8 0x32#8 0x45#8 0x17#8 = 0x5E#8 := by decide
theorem test_checksum_wraps_to_zero : checksum 0xFC#8 0x00#8 0x00#8 0x00#8 = 0x00#8 := by decide
theorem test_encode_any_command :
    encodeFrame 0x99#8 0x00#8 0x00#8 0x00#8 = [0x04#8, 0x99#8, 0x00#8, 0x00#8, 0x00#8, 0x63#8, 0x0F#8] := by decide
theorem test_decode_swapped_params :
    decodeFrame [0x04#8, 0x51#8, 0x00#8, 0x00#8, 0x05#8, 0xA6#8, 0x0F#8] = .ok 0x51#8 0x00#8 0x00#8 0x05#8 := by decide
theorem test_decode_length_first :
    decodeFrame [0x04#8, 0x51#8, 0x00#8, 0x05#8, 0x00#8, 0xA6#8] = .lengthError := by decide

theorem test_enc_frame_word : encFrame 0x11#8 0x01#8 0x00#8 0x00#8 = 0x0411010000EA0F#56 := by decide
theorem test_encode_on_its_port :
    after (exec (.encode 0x41#8 0x08#8 0x01#8 0x2C#8) idle) (fun t => t.trace) =
      some [Event.codecOut (.frame 0x044108012C860F#56)] := by decide
theorem test_decode_on_its_port :
    after (exec (.decode { len := 7, bits := 0x0551000500A60F#56 }) idle) (fun t => t.trace) =
      some [Event.codecOut (.decoded (.ok 0x51#8 0x00#8 0x05#8 0x00#8) true)] := by decide
theorem test_decode_ignores_bytes_beyond_the_count :
    after (exec (.decode { len := 6, bits := 0x0551000500A60F#56 }) idle) (fun t => t.trace) =
      some [Event.codecOut (.decoded .lengthError false)] := by decide

/-! ## Responses (S3), each as one buffer of a drain -/

theorem test_rsp_button_mode :
    after (step (draining [[0x04#8, 0x22#8, 0x00#8, 0x0F#8, 0xF0#8, 0xDB#8, 0x0F#8]])) modes =
      some [1, 1, 1, 1, 2, 2, 2, 2] := by decide
theorem test_rsp_button_mode_priority :
    after (step (draining [[0x04#8, 0x22#8, 0xFF#8, 0xFF#8, 0xFF#8, 0xDD#8, 0x0F#8]])) modes =
      some [0, 0, 0, 0, 0, 0, 0, 0] := by decide
theorem test_rsp_timer_delay :
    after (step (draining [[0x04#8, 0x44#8, 0x09#8, 0x12#8, 0x34#8, 0x69#8, 0x0F#8]])) delays =
      some [4660, 5, 5, 4660, 5, 5, 5, 5] := by decide
theorem test_rsp_timer_delay_high_byte :
    after (step (draining [[0x04#8, 0x44#8, 0x01#8, 0x01#8, 0x00#8, 0xB6#8, 0x0F#8]])) delays =
      some [256, 5, 5, 5, 5, 5, 5, 5] := by decide
theorem test_rsp_button_status :
    after (step (draining [[0x04#8, 0x50#8, 0x02#8, 0x02#8, 0x02#8, 0xA6#8, 0x0F#8]])) (buttonOf 1) =
      some (true, 1) := by decide
theorem test_rsp_button_status_not_cross_checked :
    after (step (draining [[0x04#8, 0x50#8, 0x00#8, 0x01#8, 0x00#8, 0xAB#8, 0x0F#8]])) (buttonOf 0) =
      some (false, 1) := by decide
theorem test_rsp_relay_status :
    after (step (draining [[0x04#8, 0x51#8, 0x04#8, 0x05#8, 0x00#8, 0xA2#8, 0x0F#8]])) statuses =
      some [true, false, true, false, false, false, false, false] := by decide
theorem test_rsp_relay_timers :
    after (step (draining [[0x04#8, 0x51#8, 0x00#8, 0x05#8, 0x01#8, 0xA5#8, 0x0F#8]])) timers =
      some [true, false, false, false, false, false, false, false] := by decide
theorem test_rsp_jumper :
    after (step (draining [[0x04#8, 0x70#8, 0x00#8, 0xFF#8, 0x00#8, 0x8D#8, 0x0F#8]])) (fun t => t.mirror.jumper) =
      some (some true) := by decide
theorem test_rsp_jumper_other_bytes :
    after (step (draining [[0x04#8, 0x70#8, 0xFF#8, 0x00#8, 0xFF#8, 0x8E#8, 0x0F#8]])) (fun t => t.mirror.jumper) =
      some (some false) := by decide
theorem test_rsp_firmware :
    after (step (draining [[0x04#8, 0x71#8, 0xAA#8, 0x0A#8, 0x25#8, 0xB2#8, 0x0F#8]])) (fun t => fwString t.mirror.fwver) =
      some "2010.37" := by decide
theorem test_rsp_firmware_no_padding :
    after (step (draining [[0x04#8, 0x71#8, 0x00#8, 0x18#8, 0x03#8, 0x70#8, 0x0F#8]])) (fun t => fwString t.mirror.fwver) =
      some "2024.3" := by decide
theorem test_rsp_unknown :
    after (step (draining [[0x04#8, 0x52#8, 0x00#8, 0x00#8, 0x00#8, 0xAA#8, 0x00#8]])) diagnostics =
      some [⟨.markerWarn, 0x0400⟩, ⟨.unknownCmd, 0x0052⟩] := by decide
theorem test_rejected_with_marker :
    after (step (draining [[0x05#8, 0x51#8, 0x00#8, 0x05#8, 0x00#8, 0xA7#8, 0x0E#8]])) diagnostics =
      some [⟨.markerWarn, 0x050E⟩, ⟨.checksum, 0xA7A6⟩] := by decide
theorem test_rejected_length :
    after (step (draining [[0x04#8, 0x51#8, 0x00#8, 0x05#8, 0x00#8, 0xA6#8]])) diagnostics =
      some [⟨.length, 6⟩] := by decide

/-! ## The receive queue (R42, R43, R48, R49): cut by count, whatever stands there -/

/-- Nine bytes waiting: a whole frame, then two bytes of a next one. -/
def nineWaiting : List Byte := [0x04#8, 0x51#8, 0x00#8, 0x05#8, 0x00#8, 0xA6#8, 0x0F#8, 0x04#8, 0x51#8]

theorem test_rx_avail_counts_bytes : rxAvail { idle with rxQueue := nineWaiting } = 9 := by decide
theorem test_rx_read_at_most_seven :
    (rxRead 7 { idle with rxQueue := nineWaiting }).1.length = 7 ∧
    (rxRead 7 { idle with rxQueue := nineWaiting }).2.rxQueue = [0x04#8, 0x51#8] := by decide
theorem test_rx_read_size_is_bounded :
    (rxRead 7 { idle with rxQueue := nineWaiting, rxAnswers := [.full 9] }).1.length = 7 := by decide
theorem test_drain_cuts_by_count :
    after (exec .queryRelayStatus { idle with rxQueue := nineWaiting }) (fun t => (diagnostics t, statuses t, t.rxQueue)) =
      some ([⟨.length, 2⟩], [true, false, true, false, false, false, false, false], []) := by decide
theorem test_drain_of_one_empty_read :
    after (exec .queryRelayStatus (idleRx [[]])) (fun t => (diagnostics t, t.rxQueue, (results t).length)) =
      some ([⟨.length, 0⟩], [], 1) := by decide
theorem test_timed_out_read_loses_its_bytes :
    rxRead 7 { idle with rxQueue := nineWaiting, rxAnswers := [{ takes := 5, gives := 2 }] } =
      ([0x04#8, 0x51#8], { idle with rxQueue := [0xA6#8, 0x0F#8, 0x04#8, 0x51#8] }) := by decide
theorem test_short_read_loses_alignment :
    after (exec .queryRelayStatus { idle with rxQueue := nineWaiting, rxAnswers := [.full 0, .full 2] }) diagnostics =
      some [⟨.length, 0⟩, ⟨.length, 2⟩, ⟨.markerWarn, 0x0051⟩, ⟨.checksum, 0x0442⟩] := by decide

/-! ## Host operations (S4) -/

theorem test_relay_on : after (exec (.relayOn 7) idle) sentAndDone =
    some ([[0x04#8, 0x11#8, 0x80#8, 0x00#8, 0x00#8, 0x6B#8, 0x0F#8]], [.ok]) := by decide
theorem test_relay_on_report :
    after (exec (.relayOn 0) (idleRx [[0x04#8, 0x51#8, 0x00#8, 0x01#8, 0x00#8, 0xAA#8, 0x0F#8]])) statuses =
    some [true, false, false, false, false, false, false, false] := by decide
theorem test_relay_off : after (exec (.relayOff 2) idle) sentAndDone =
    some ([[0x04#8, 0x12#8, 0x04#8, 0x00#8, 0x00#8, 0xE6#8, 0x0F#8]], [.ok]) := by decide
theorem test_relay_toggle : after (exec (.relayToggle 5) idle) sentAndDone =
    some ([[0x04#8, 0x14#8, 0x20#8, 0x00#8, 0x00#8, 0xC8#8, 0x0F#8]], [.ok]) := by decide
theorem test_start_timer : after (exec (.startTimer 3 (some 300)) idle) sentAndDone =
    some ([[0x04#8, 0x41#8, 0x08#8, 0x01#8, 0x2C#8, 0x86#8, 0x0F#8]], [.ok]) := by decide
theorem test_start_timer_range : after (exec (.startTimer 3 (some 65536)) idle) sentAndDone =
    some ([], [.errValRange]) := by decide
theorem test_set_delay_write_error : after (exec (.setDelay 6 256) idleTxErr) (fun t => (delays t, sentAndDone t)) =
    some ([5, 5, 5, 5, 5, 5, 256, 5],
      [[0x04#8, 0x42#8, 0x40#8, 0x01#8, 0x00#8, 0x79#8, 0x0F#8]], [.errTransport]) := by decide
theorem test_set_button_mode_overwritten :
    after (exec (.setButtonMode 3 2) (idleRx [[0x04#8, 0x22#8, 0x00#8, 0xFF#8, 0x00#8, 0xDB#8, 0x0F#8]]))
      (fun t => (modes t, sentAndDone t)) =
      some ([1, 1, 1, 1, 1, 1, 1, 1],
        [[0x04#8, 0x21#8, 0x00#8, 0xF7#8, 0x08#8, 0xDC#8, 0x0F#8]], [.ok]) := by decide
theorem test_query_relay_status_last_wins :
    after (exec .queryRelayStatus (idleRx [[0x04#8, 0x51#8, 0x00#8, 0x01#8, 0x00#8, 0xAA#8, 0x0F#8],
      [0x04#8, 0x51#8, 0x00#8, 0x02#8, 0x00#8, 0xA9#8, 0x0F#8]])) statuses =
      some [false, true, false, false, false, false, false, false] := by decide
theorem test_query_button_mode : after (exec (.queryButtonMode) idle) sentAndDone =
    some ([[0x04#8, 0x22#8, 0x00#8, 0x00#8, 0x00#8, 0xDA#8, 0x0F#8]], [.ok]) := by decide
theorem test_query_jumper : after (exec (.queryJumper) idle) sentAndDone =
    some ([[0x04#8, 0x70#8, 0x00#8, 0x00#8, 0x00#8, 0x8C#8, 0x0F#8]], [.ok]) := by decide
theorem test_query_firmware : after (exec (.queryFirmware) idle) sentAndDone =
    some ([[0x04#8, 0x71#8, 0x00#8, 0x00#8, 0x00#8, 0x8B#8, 0x0F#8]], [.ok]) := by decide
theorem test_factory_reset : after (exec (.factoryReset) idle) sentAndDone =
    some ([[0x04#8, 0x66#8, 0x00#8, 0x00#8, 0x00#8, 0x96#8, 0x0F#8]], [.ok]) := by decide
theorem test_factory_reset_keeps_mirror :
    after (exec .factoryReset { idle with mirror := idle.mirror.setRelay 4 ⟨4660, false, false⟩ }) delays =
      some [5, 5, 5, 5, 4660, 5, 5, 5] := by decide
theorem test_read_firmware_version :
    after (exec .readFirmwareVersion (idleRx [[0x04#8, 0x71#8, 0x00#8, 0x18#8, 0x03#8, 0x70#8, 0x0F#8]])) results =
      some [(.ok, .firmware (some ⟨24, 3⟩))] := by decide
theorem test_read_jumper_unknown :
    after (exec .readJumper (idleRx [[0x04#8, 0x70#8, 0x00#8, 0x01#8, 0x00#8, 0x8A#8, 0x0F#8]])) results =
      some [(.ok, .jumper .unknown)] := by decide
theorem test_read_relay : after (exec (.readRelay 0) idle) results = some [(.ok, .relay 5 false false)] := by decide
theorem test_read_relay_drains_nothing :
    after (exec (.readRelay 0) (idleRx [[0x04#8]])) (fun t => t.arrivals) = some [[0x04#8]] := by decide
theorem test_read_button : after (exec (.readButton 0) idle) results =
    some [(.ok, .button .toggle false .inactive)] := by decide

/-! ## The sequencer (S5) and exceptions (S6) -/

theorem test_close : after (exec .close idle) (fun t => (closePulses t, t.closed, t.phase, results t)) =
    some (1, true, .closed, [(.ok, .none)]) := by decide
theorem test_close_again : after (exec .close afterClose) (fun t => (closePulses t, results t)) =
    some (0, [(.ok, .none)]) := by decide
theorem test_close_after_failed_init :
    after (exec .close { State.reset with phase := .closed, closed := true }) (fun t => (closePulses t, results t)) =
      some (0, [(.ok, .none)]) := by decide
theorem test_refused_after_close : refusal (exec .queryJumper afterClose) = some .afterClose := by decide
theorem test_init_first_frame : after (step State.reset) (fun t => ((sentFrames t).map Prod.fst, t.phase)) =
    some ([[0x04#8, 0x18#8, 0x00#8, 0x00#8, 0x00#8, 0xE4#8, 0x0F#8]], .init) := by decide
theorem test_init_third_frame :
    after (exec .initQueryTimerDelay { State.reset with initAt := .timerDelay }) (fun t => (sentAndDone t, t.phase)) =
      some (([[0x04#8, 0x44#8, 0xFF#8, 0x00#8, 0x00#8, 0xB9#8, 0x0F#8]], []), .idle) := by decide
theorem test_init_fails :
    after (step { State.reset with txAnswers := [.error] }) (fun t => (t.phase, t.closed, closePulses t, results t)) =
      some (.closed, true, 0, [(.errTransport, .none)]) := by decide
theorem test_validation_before_transport :
    after (exec (.setDelay 0 65536) idleTxErr) (fun t => (sentAndDone t, t.txAnswers)) =
      some (([], [.errValRange]), [.error]) := by decide
theorem test_mode_code_three : after (exec (.setButtonMode 5 3) idle) sentAndDone = some ([], [.errValMode]) := by decide

/-! ## Witnesses: the hypotheses of each obligation, met together -/

theorem witness_StepRunsThePresentedInstruction_codec :
    ∃ (s : State) (q : CodecIn) (later : List CodecIn), s.rst = false ∧ s.codec = q :: later := ⟨{ idle with codec := [.sum 0 0 0 0] }, _, _, rfl, rfl⟩
theorem witness_StepRunsThePresentedInstruction_command :
    (∃ (s : State) (w : CmdWord) (later : List CmdWord), s.rst = false ∧ s.codec = [] ∧ (s.phase = .idle ∨ s.phase = .closed) ∧ s.cmds = w :: later) ∧
    (∃ s : State, s.phase = .closed ∧ s.rst = false ∧ s.codec = [] ∧ s.cmds ≠ []) :=
  ⟨⟨{ idle with cmds := [cmdWord 0x6] }, _, _, rfl, rfl, .inl rfl, rfl⟩,
    ⟨{ afterClose with cmds := [cmdWord 0xF] }, rfl, rfl, rfl, by simp⟩⟩
theorem witness_StepRunsThePresentedInstruction_response :
    ∃ (s : State) (i : Instr), s.rst = false ∧ s.codec = [] ∧ s.phase = .drain ∧ s.rxQueue ≠ [] ∧
      decodeRx s.nextRead = .instr i :=
  ⟨draining [[0x04#8, 0x51#8, 0x00#8, 0x05#8, 0x00#8, 0xA6#8, 0x0F#8]], _, rfl, rfl, rfl, by decide, rfl⟩
theorem witness_StepRunsThePresentedInstruction_init :
    State.reset.rst = false ∧ State.reset.codec = [] ∧ State.reset.phase = .init := by decide
theorem witness_StepRunsThePresentedInstruction_wait :
    idle.rst = false ∧ idle.codec = [] ∧ (idle.phase = .idle ∨ idle.phase = .closed) ∧ idle.cmds = [] := by decide
theorem witness_OperationTakenUpAfterAcceptance :
    ∃ (s : State) (i : Instr) (w : CmdWord), s.rst = false ∧ s.codec = [] ∧ s.phase = .idle ∧ encode i = .cmd w ∧
      i.WellFormed ∧ (planOf i).isSome = true := ⟨idle, .setDelay 7 65536, _, rfl, rfl, rfl, rfl, by decide, rfl⟩
theorem witness_StepwiseDrainIsTheDrain :
    ∃ (s : State) (p : Plan), s.rst = false ∧ s.codec = [] ∧ s.phase = .drain ∧ currentPlan s = some p ∧
      s.queued.length = 2 := ⟨draining [[], [0x04#8]], _, rfl, rfl, rfl, rfl, rfl⟩
theorem witness_BufferOfADrainIsProcessed :
    ∃ s : State, s.rst = false ∧ s.codec = [] ∧ s.phase = .drain ∧ s.rxQueue ≠ [] ∧ s.nextRead = [] :=
  ⟨draining [[], [0x04#8]], rfl, rfl, rfl, by decide, rfl⟩
theorem witness_DecodeInvertsEncode : (Instr.startTimer 7 (some (-(2 ^ 31)))).WellFormed ∧
    (Instr.rspUnknown 0xFF#8 0x23#8 1 2 3 0#8).WellFormed := by decide
theorem witness_SecondsAreBigEndian : (0 : Int) ≤ 0 ∧ (0 : Int) ≤ 65535 ∧ (65535 : Int) ≤ 65535 := by decide
theorem witness_DecodeAnswersByLengthThenChecksum :
    ([] : List Byte).length ≠ 7 ∧ [0x04#8, 0x51#8, 0x00#8, 0x05#8, 0x00#8, 0xA6#8].length ≠ 7 := by decide
theorem witness_CodecLaws_flip :
    7 < 8 ∧ decodeFrame [0x04#8, 0x51#8, 0x00#8, 0x05#8, 0x00#8, 0xA6#8, 0x0F#8] = .ok 0x51#8 0x00#8 0x05#8 0x00#8 := by
  decide
theorem witness_CodecLaws_sum :
    0x51#8 + 0x00#8 + 0x05#8 + 0x00#8 + 0xA6#8 = 0x50#8 + 0x01#8 + 0x05#8 + 0x00#8 + 0xA6#8 := by decide
theorem witness_FrameInvariant :
    ∃ (s t : State) (f : List Byte) (a : TxAnswer), step s = .next t ∧ (f, a) ∈ sentFrames t ∧
      (f, a) ∉ sentFrames s := by
  refine ⟨{ idle with cmds := [cmdWord 0x6] }, _, frameBytes 0x18#8 0 0 0, .ok, rfl, ?_, ?_⟩ <;> decide
theorem witness_ButtonModeReport : ∃ start stop : Byte, start = 0x04#8 ∧ stop = 0x0F#8 := ⟨_, _, rfl, rfl⟩
theorem witness_TimerDelayReport : ∃ start stop : Byte, start = 0x04#8 ∧ stop = 0x0F#8 := ⟨_, _, rfl, rfl⟩
theorem witness_ButtonStatusReport : ∃ start stop : Byte, start = 0x04#8 ∧ stop = 0x0F#8 := ⟨_, _, rfl, rfl⟩
theorem witness_RelayStatusReport : ∃ start stop : Byte, start = 0x04#8 ∧ stop = 0x0F#8 := ⟨_, _, rfl, rfl⟩
theorem witness_ReportsShowMarkerWarningsOnly :
    Instr.rspFirmware 5 0 0 0 0x0F#8 ∈ [Instr.rspButtonMode 5 0 0 0 0x0F#8, Instr.rspTimerDelay 5 0 0 0 0x0F#8,
      Instr.rspButtonStatus 5 0 0 0 0x0F#8, Instr.rspRelayStatus 5 0 0 0 0x0F#8, Instr.rspJumper 5 0 0 0 0x0F#8,
      Instr.rspFirmware 5 0 0 0 0x0F#8] := by decide
theorem witness_UnknownResponseIsReportedAndDropped :
    0x52#8 ≠ 0x22#8 ∧ 0x52#8 ≠ 0x44#8 ∧ 0x52#8 ≠ 0x50#8 ∧ 0x52#8 ≠ 0x51#8 ∧ 0x52#8 ≠ 0x70#8 ∧ 0x52#8 ≠ 0x71#8 := by
  decide
theorem witness_RejectedBuffersChangeNoRegister_length :
    (∃ s : State, s.rst = false ∧ s.codec = [] ∧ s.phase = .drain ∧ s.rxQueue ≠ [] ∧ s.nextRead.length = 0) ∧
    (∃ s : State, s.rst = false ∧ s.codec = [] ∧ s.phase = .drain ∧ s.rxQueue ≠ [] ∧ s.nextRead.length = 6) :=
  ⟨⟨draining [[], [0x04#8]], rfl, rfl, rfl, by decide, rfl⟩,
    ⟨draining [[0x04#8, 0x51#8, 0x00#8, 0x05#8, 0x00#8, 0xA6#8]], rfl, rfl, rfl, by decide, rfl⟩⟩
theorem witness_RejectedBuffersChangeNoRegister_checksum :
    ∃ (s : State) (b0 c m p q k b6 : Byte), s.rst = false ∧ s.codec = [] ∧ s.phase = .drain ∧
      s.nextRead = [b0, c, m, p, q, k, b6] ∧ k ≠ 0 - (0x04#8 + c + m + p + q) :=
  ⟨draining [[0x04#8, 0x51#8, 0x00#8, 0x05#8, 0x00#8, 0xA7#8, 0x0F#8]], _, _, _, _, _, _, _,
    rfl, rfl, rfl, rfl, by decide⟩
theorem witness_FrameErrorsDoNotTouchTheOperation :
    ∃ (w : CmdWord) (s t : State) (queue : List Byte) (arrivals : List (List Byte)) (answers : List RxAnswer),
      s.phase = .idle ∧ exec (decodeCmd w) s = .next t ∧
      State.waiting { s with rxQueue := queue, arrivals := arrivals, rxAnswers := answers } =
        s.waiting.filter (fun b => decOk b) ∧ queue ≠ [] ∧ (s.waiting.any fun b => !decOk b) = true :=
  ⟨cmdWord 0x6, { idle with rxQueue := nineWaiting }, _,
    [0x04#8, 0x51#8, 0x00#8, 0x05#8, 0x00#8, 0xA6#8, 0x0F#8], [], [], rfl, rfl, by decide, by simp, by decide⟩
theorem witness_DiagnosticsOfOneBuffer : ([] : List Byte).length ≠ 7 := by decide
theorem witness_LanesAreIndependent :
    ∀ c : Byte, c = 0x22#8 ∨ c = 0x50#8 ∨ c = 0x51#8 ∨ c = 0x44#8 →
      ∃ (m p q m' p' q' k k' : Byte) (s t : State) (i : Idx),
        (c = 0x22#8 ∨ c = 0x50#8 ∨ c = 0x51#8 ∨ (c = 0x44#8 ∧ p = p' ∧ q = q')) ∧
        m.getLsbD i.val = m'.getLsbD i.val ∧ p.getLsbD i.val = p'.getLsbD i.val ∧
        q.getLsbD i.val = q'.getLsbD i.val ∧ k = checksum c m p q ∧ k' = checksum c m' p' q' ∧
        s.mirror.relays.get i = t.mirror.relays.get i ∧ s.mirror.buttons.get i = t.mirror.buttons.get i ∧ m ≠ m' ∧
        (c ≠ 0x44#8 → p ≠ p' ∧ q ≠ q') := by
  rintro c (rfl | rfl | rfl | rfl)
  · exact ⟨1, 2#8, 4#8, 3#8, 6#8, 0xC#8, _, _, idle, afterClose, 0, by decide, by decide, by decide, by decide,
      rfl, rfl, by decide, by decide, by decide, by decide⟩
  · exact ⟨0x80#8, 2#8, 4#8, 0x81#8, 6#8, 0xC#8, _, _, idle, afterClose, 7, by decide, by decide, by decide, by decide,
      rfl, rfl, by decide, by decide, by decide, by decide⟩
  · exact ⟨1, 0x80#8, 4#8, 3#8, 0x82#8, 0xC#8, _, _, idle, afterClose, 7, by decide, by decide, by decide, by decide,
      rfl, rfl, by decide, by decide, by decide, by decide⟩
  · exact ⟨1, 0, 9#8, 3#8, 0, 9#8, _, _, idle, afterClose, 0, by decide, by decide, by decide, by decide,
      rfl, rfl, by decide, by decide, by decide, by decide⟩
theorem witness_EchoOfSentFrames : InCommandMap 0x11#8 0x80#8 0 0 ∧ 0x11#8 ≠ 0x22#8 ∧ 0x11#8 ≠ 0x44#8 ∧
    0x11#8 ≠ 0x70#8 ∧ 0x11#8 ≠ 0x71#8 :=
  ⟨.inl ⟨.inl rfl, ⟨7, by decide⟩, rfl, rfl⟩, by decide, by decide, by decide, by decide⟩
theorem witness_RelaySwitchOperations : idle.phase = .idle ∧ idle.nextAnswer = .ok ∧ idleTxErr.phase = .idle ∧
    idleTxErr.nextAnswer = .error := by decide
theorem witness_StartTimerOperation : idle.phase = .idle ∧ 0 ≤ 65535 ∧ 65535 ≤ 65535 ∧
    ((-1 : Int) < 0 ∨ (-1 : Int) > 65535) ∧ ((65536 : Int) < 0 ∨ (65536 : Int) > 65535) := by decide
theorem witness_SetDelayOperation : idleTxErr.phase = .idle ∧ 0 ≤ 65535 ∧ 65535 ≤ 65535 ∧
    ((-1 : Int) < 0 ∨ (-1 : Int) > 65535) ∧ ((65536 : Int) < 0 ∨ (65536 : Int) > 65535) := by decide
theorem witness_SetButtonModeOperation : idle.phase = .idle ∧ modeOfCode 2 = some .timed := by decide
theorem witness_QueriesAndFactoryReset : (idleRx [[0x04#8]]).phase = .idle := rfl
theorem witness_PropertyReads : (idleRx [[0x04#8, 0x71#8, 0x00#8, 0x18#8, 0x03#8, 0x70#8, 0x0F#8]]).phase = .idle := rfl
theorem witness_PureReads : idle.phase = .idle := rfl
theorem witness_ValidationFailuresComplete : idle.phase = .idle ∧
    decodeCmd (cmdWord 0x5 0 false 3) = .setButtonMode 0 3 ∧ decodeCmd (cmdWord 0x4 0 false 0 65536) = .setDelay 0 65536 ∧
    decodeCmd (cmdWord 0x3 0 true 0 (-1)) = .startTimer 0 (some (-1)) := by decide
theorem witness_RelayStatusOnlyByReport :
    ∃ (w : CmdWord) (s t : State), s.phase = .idle ∧ exec (decodeCmd w) s = .next t ∧ s.waiting ≠ [] ∧
      (∀ b ∈ s.waiting, ∀ m p q, decodeFrame b ≠ .ok 0x51#8 m p q) :=
  ⟨cmdWord 0x0, idleRx [[0x04#8]], _, rfl, rfl, by decide, by
    intro b hb m p q
    have e : (idleRx [[0x04#8]]).waiting = [[0x04#8]] := by decide
    rw [e] at hb
    simp at hb; subst hb; simp [decodeFrame]⟩
theorem witness_PhasesOfATransaction :
    ∃ (i : Instr) (w : CmdWord) (p : Plan) (s : State), s.phase = .idle ∧ encode i = .cmd w ∧ planOf i = some p ∧
      p.check = none := ⟨.setDelay 0 65535, _, _, idle, rfl, rfl, rfl, by decide⟩
theorem witness_PhasesOfATransaction_rejected :
    ∃ (i : Instr) (w : CmdWord) (p : Plan) (s : State), s.phase = .idle ∧ encode i = .cmd w ∧ planOf i = some p ∧
      p.check = some .errValRange := ⟨.setDelay 0 65536, _, _, idle, rfl, rfl, rfl, by decide⟩
theorem witness_CommandsWaitWhileBusy : busy (draining []) = true ∧ (draining []).phase ≠ .init ∧
    ∃ t, step (draining []) = .next t := ⟨by decide, by decide, _, rfl⟩
theorem witness_CloseOperation : idle.phase = .idle ∧ afterClose.phase = .closed := by decide
theorem witness_RefusedAfterClose : afterClose.phase = .closed ∧ decodeCmd (cmdWord 0xD) ≠ .close ∧ afterClose.rst = false ∧
    ∃ t, step afterClose = .next t := ⟨rfl, by decide, rfl, _, rfl⟩
theorem witness_StartUpSequence_frames :
    (State.reset.phase = .init ∧ State.reset.nextAnswer = .ok ∧ State.reset.initAt = .relayStatus) ∧
    (∃ s : State, s.phase = .init ∧ s.nextAnswer = .ok ∧ s.initAt = .buttonMode) ∧
    (∃ s : State, s.phase = .init ∧ s.nextAnswer = .ok ∧ s.initAt = .timerDelay) :=
  ⟨by decide, ⟨{ State.reset with initAt := .buttonMode }, rfl, rfl, rfl⟩,
    ⟨{ State.reset with initAt := .timerDelay }, rfl, rfl, rfl⟩⟩
theorem witness_StartUpSequence_run :
    ∃ (s : State) (a1 a2 a3 : List Byte) (later d1 d2 d3 : List (List Byte)) (answers : List TxAnswer),
      s.rst = false ∧ s.codec = [] ∧ s.phase = .init ∧ s.initAt = .relayStatus ∧
      s.arrivals = a1 :: a2 :: a3 :: later ∧ s.txAnswers = .ok :: .ok :: .ok :: answers ∧
      d1 = cuts (s.rxQueue ++ a1) s.rxAnswers ∧ d2 = cuts a2 (s.rxAnswers.drop d1.length) ∧
      d3 = cuts a3 (s.rxAnswers.drop (d1.length + d2.length)) ∧ s.rxQueue ≠ [] ∧ d2.length = 2 :=
  ⟨{ State.reset with
      rxQueue := [0x04#8], arrivals := [[0x51#8], [0x04#8, 0x22#8], []], rxAnswers := [.full 5, .full 1], txAnswers := [.ok, .ok, .ok] },
    _, _, _, _, _, _, _, _, rfl, rfl, rfl, rfl, rfl, rfl, rfl, rfl, rfl, by simp, by decide⟩
theorem witness_StartUpFailure :
    ∃ s : State, s.rst = false ∧ s.codec = [] ∧ s.phase = .init ∧ s.nextAnswer = .error ∧ s.initAt = .timerDelay :=
  ⟨{ State.reset with txAnswers := [.error], initAt := .timerDelay }, rfl, rfl, rfl, rfl, rfl⟩
theorem witness_TimerDelayQueryOutsideInit : ¬ (State.reset.phase = .init ∧ State.reset.initAt = .timerDelay) ∧
    ¬ (idle.phase = .init ∧ idle.initAt = .timerDelay) := by decide
theorem witness_ResetInAnyPhase : ({ draining [] with rst := true } : State).rst = true := rfl
theorem witness_SequencerInvariantIsKept : SeqInv (draining []) ∧ ∃ t, step (draining []) = .next t := by
  refine ⟨⟨by decide, by decide, by decide⟩, _, rfl⟩
theorem witness_SentFramesInvariantIsKept : SentInv State.reset ∧ ∃ t, step State.reset = .next t :=
  ⟨(by intro f a h; cases h), _, rfl⟩
theorem witness_CloseOnceInvariantIsKept :
    ∃ s t : State, CloseInv s ∧ step s = .next t ∧ closePulses t = 1 :=
  ⟨{ idle with cmds := [cmdWord 0xF] }, _, ⟨by decide, by decide⟩, rfl, by decide⟩
theorem witness_UnusedResultsInvariantIsKept : ∃ s t : State, ResultInv s ∧ step s = .next t ∧ results t ≠ [] :=
  ⟨{ idle with cmds := [cmdWord 0xD] }, _, (by intro c d h; cases h), rfl, by decide⟩
theorem witness_ActionNeverReturnsToInactive :
    ∃ (s t : State) (i : Idx), s.rst = false ∧ step s = .next t ∧ (t.mirror.buttons.get i).action = .inactive :=
  ⟨draining [[0x04#8, 0x50#8, 0x04#8, 0x04#8, 0x00#8, 0xA4#8, 0x0F#8]], _, 1, rfl, rfl, by decide⟩
theorem witness_ValidBitsStaySet :
    ∃ s t : State, s.rst = false ∧ step s = .next t ∧ fwValid s.mirror = true ∧ jpValid s.mirror = true :=
  ⟨{ idle with mirror := { idle.mirror with fwver := some ⟨24, 3⟩, jumper := some false } }, _, rfl, rfl, rfl, rfl⟩
theorem witness_MirrorIsStableWhileIdle_codec :
    ∃ s t : State, s.phase = .idle ∧ s.rst = false ∧ step s = .next t ∧ s.codec ≠ [] :=
  ⟨{ idle with codec := [.dec (validatorIn [])] }, _, rfl, rfl, rfl, by simp⟩
theorem witness_MirrorIsStableWhileIdle_wait :
    ∃ s t : State, s.phase = .idle ∧ s.rst = false ∧ step s = .next t ∧ s.cmds = [] ∧ s.waiting ≠ [] :=
  ⟨idleRx [[0x04#8]], _, rfl, rfl, rfl, rfl, by decide⟩
theorem witness_MirrorIsStableWhileIdle_read :
    ∃ s t : State, s.phase = .idle ∧ s.rst = false ∧ step s = .next t ∧
      ∃ w later, s.cmds = w :: later ∧ planOf (decodeCmd w) = none :=
  ⟨{ idleRx [[0x04#8]] with cmds := [cmdWord 0xE] }, _, rfl, rfl, rfl, _, _, rfl, rfl⟩
theorem witness_OperationTakenUpInLaterPhases :
    (∃ (s : State) (i : Instr) (w : CmdWord) (p : Plan), s.rst = false ∧ s.codec = [] ∧ s.phase = .idle ∧
      encode i = .cmd w ∧ i.WellFormed ∧ planOf i = some p ∧ p.check = none ∧ p.update.isSome = true ∧
      s.nextAnswer = .ok ∧ s.waiting ≠ []) ∧
    (∃ (s : State) (i : Instr) (w : CmdWord) (p : Plan), s.rst = false ∧ s.codec = [] ∧ s.phase = .idle ∧
      encode i = .cmd w ∧ i.WellFormed ∧ planOf i = some p ∧ p.check = none ∧ s.nextAnswer = .error) :=
  ⟨⟨idleRx [[0x04#8]], .setDelay 7 65535, _, _, rfl, rfl, rfl, rfl, by decide, rfl, by decide, rfl, rfl, by decide⟩,
    ⟨idleTxErr, .setButtonMode 7 2, _, _, rfl, rfl, rfl, rfl, by decide, rfl, by decide, rfl⟩⟩
theorem witness_ReceiveCallsOfTheTransport : idle.rxAnswers = [] ∧ NoTimeout [.full 0, .full 9] := by
  simp [NoTimeout, RxAnswer.full, idle, State.reset]
theorem witness_DrainReadsTheQueueInOrder :
    (∃ s : State, NoTimeout s.rxAnswers ∧ s.waiting.getLast? = some [0x04#8, 0x51#8]) ∧
    (∃ (s : State) (b : List Byte), s.rxAnswers = [] ∧ b ∈ s.waiting.dropLast) ∧
    (∃ s : State, ¬ NoTimeout s.rxAnswers ∧ s.waiting.getLast? = some []) :=
  ⟨⟨{ idle with rxQueue := nineWaiting, rxAnswers := [.full 0, .full 7] }, by simp [NoTimeout, RxAnswer.full], by decide⟩,
    ⟨{ idle with rxQueue := nineWaiting }, [0x04#8, 0x51#8, 0x00#8, 0x05#8, 0x00#8, 0xA6#8, 0x0F#8], rfl, by decide⟩,
    ⟨idleRx [[0x04#8], []], by simp [idleRx, answersOf, NoTimeout, RxAnswer.full], by decide⟩⟩
theorem witness_EveryBufferListCanBeDrained :
    (∀ b ∈ [nineWaiting.take 7, [0x04#8], []], b.length ≤ 7) ∧
    (idleRx [nineWaiting.take 7, [0x04#8], []]).waiting = [nineWaiting.take 7, [0x04#8], []] := by decide
theorem witness_CodecPortForms :
    0 ≠ 7 ∧ 6 ≠ 7 ∧ 8 ≠ 7 ∧ (0x0551000500A60F#56).extractLsb' 40 8 = 0x51#8 ∧
    (0 < 7 ∧ 0 < [0x04#8].length) ∧ (6 < 7 ∧ 6 < (encodeFrame 0 0 0 0).length) := by decide
theorem witness_StepStopsOnlyAfterClose : SeqInv idle ∧ SeqInv afterClose := by
  refine ⟨⟨by decide, by decide, by decide⟩, ⟨by decide, by decide, by decide⟩⟩

end Sys2Proof.Tests
end

section
/-! PROOFS. The encodings (30_encoding.md): the two seconds bytes of R65 as arithmetic, DECODE's acceptance
as an equivalence (R62), and what any step adds to the frames offered to the transport. -/

namespace Sys2Proof.Machine

/-! ## Seconds (R65) -/

/-- `(s >> 8) & 0xFF` as arithmetic. -/
theorem secondsHigh_natCast_toNat (n : Nat) : (secondsHigh n).toNat = n / 256 % 256 := by
  have shifted : (n : Int) >>> (8 : Nat) = ((n / 256 : Nat) : Int) := by
    rw [Int.shiftRight_eq_div_pow]; simp
  rw [secondsHigh, shifted, BitVec.ofInt_natCast, BitVec.toNat_ofNat]

/-- `s & 0xFF` as arithmetic. -/
theorem secondsLow_natCast_toNat (n : Nat) : (secondsLow n).toNat = n % 256 := by
  rw [secondsLow, BitVec.ofInt_natCast, BitVec.toNat_ofNat]

/-- `(param1 << 8) | param2` as arithmetic: the two bytes do not overlap. -/
theorem secondsOf_toNat (p q : Byte) : (secondsOf p q).toNat = p.toNat * 256 + q.toNat := by
  have high : (p.setWidth 16 <<< 8).toNat = p.toNat <<< 8 := by
    simp only [BitVec.toNat_shiftLeft, BitVec.toNat_setWidth, Nat.shiftLeft_eq]
    omega
  have low : (q.setWidth 16).toNat = q.toNat := BitVec.toNat_setWidth_of_le (by decide)
  rw [secondsOf, BitVec.toNat_or, high, low, ← Nat.shiftLeft_add_eq_or_of_lt q.isLt, Nat.shiftLeft_eq]

/-- Settles O8: the two bytes are the quotient and the remainder by 256, and a report joins them again. -/
theorem secondsAreBigEndian : Obligations.SecondsAreBigEndian := by
  unfold Obligations.SecondsAreBigEndian
  refine ⟨fun s nonneg le => ?_, secondsOf_toNat⟩
  obtain ⟨n, rfl⟩ := Int.eq_ofNat_of_zero_le nonneg
  rw [secondsHigh_natCast_toNat, secondsLow_natCast_toNat, Int.toNat_natCast]
  exact ⟨by omega, rfl⟩

/-! ## Acceptance (R62, R82 to R84) -/

/-- DECODE accepts a buffer exactly when it has seven bytes and its byte 5 is the checksum of the four
payload bytes. -/
theorem decodeFrame_eq_ok_iff {buf : List Byte} {c m p q : Byte} :
    decodeFrame buf = .ok c m p q ↔ ∃ b0 b6 : Byte, buf = [b0, c, m, p, q, checksum c m p q, b6] := by
  constructor
  · intro accepted
    rcases seven_or_not buf with ⟨b0, c', m', p', q', k, b6, rfl⟩ | length_ne
    · rw [decodeFrame_seven] at accepted
      split at accepted
      next sum_eq =>
        cases accepted
        exact ⟨b0, b6, by rw [sum_eq]⟩
      next => cases accepted
    · rw [decodeFrame_length length_ne] at accepted
      cases accepted
  · rintro ⟨b0, b6, rfl⟩
    rw [decodeFrame_seven, if_pos rfl]

/-! ## The frames a step offers to the transport (R62, R66) -/

/-- The TX port carries the trace's TX events. -/
theorem mem_sentFrames {s : State} {f : List Byte} {a : TxAnswer} :
    (f, a) ∈ sentFrames s ↔ Event.tx f a ∈ s.trace := by
  rw [sentFrames, List.mem_filterMap]
  constructor
  · rintro ⟨e, mem, he⟩
    cases e <;> cases he
    exact mem
  · exact fun mem => ⟨_, mem, rfl⟩

/-- A drain offers no frame. -/
theorem tx_notMem_drainDiags (bufs : List (List Byte)) (f : List Byte) (a : TxAnswer) :
    Event.tx f a ∉ drainDiags bufs := by
  simp [drainDiags]

/-- A frame of the map of transmitted frames (R66), as `SentInv` asks of every frame sent. -/
def IsMapFrame (f : List Byte) : Prop :=
  ∃ c m p q : Byte, InCommandMap c m p q ∧ f = frameBytes c m p q

/-- INIT's three frames are rows of the map. -/
theorem initFrame_isMapFrame (slot : InitSlot) : IsMapFrame (initFrame slot) := by
  cases slot <;> exact ⟨_, _, _, _, by simp [InCommandMap], rfl⟩

/-- An operation offers no frame but its plan's, which is a row of the map. -/
theorem Finishes.tx_mem {i : Instr} {p : Plan} {s t : State} {f : List Byte} {a : TxAnswer}
    (h : Finishes p s t) (hp : planOf i = some p) (mem : Event.tx f a ∈ t.trace) :
    Event.tx f a ∈ s.trace ∨ IsMapFrame f := by
  obtain ⟨evs, trace_eq, shows⟩ := h.trace
  rw [trace_eq, List.mem_append] at mem
  rcases mem with old | new
  · exact .inl old
  · obtain ⟨m, rfl⟩ := shows _ new
    exact .inr ⟨_, _, _, _, payload_inMap hp m, rfl⟩

/-- A command offers no frame outside the map. -/
theorem CommandDoes.tx_mem {i : Instr} {s t : State} {f : List Byte} {a : TxAnswer}
    (h : CommandDoes i s t) (mem : Event.tx f a ∈ t.trace) : Event.tx f a ∈ s.trace ∨ IsMapFrame f := by
  cases h with
  | operation _ hp fin => exact fin.tx_mem hp mem
  | read => exact .inl (by simpa using mem)
  | close => exact .inl (by simpa using mem)
  | closeAgain => exact .inl (by simpa using mem)

/-- A step of INIT whose frame is taken offers that frame. -/
theorem tx_mem_initTaken {s : State} {f : List Byte} {a : TxAnswer} :
    Event.tx f a ∈ (initTaken s).trace ↔ Event.tx f a ∈ s.trace ∨ f = initFrame s.initAt ∧ a = .ok := by
  cases slot : s.initAt <;> simp [initTaken, slot, afterInitFrame, tx_notMem_drainDiags]

/-- A step of INIT whose frame is refused offers that frame. -/
theorem tx_mem_afterInitFailure {s : State} {frame f : List Byte} {a : TxAnswer} :
    Event.tx f a ∈ (afterInitFailure frame s).trace ↔ Event.tx f a ∈ s.trace ∨ f = frame ∧ a = .error := by
  simp [afterInitFailure]

/-- Every frame a step offers to the transport is a row of the map. -/
theorem step_tx_mem {s t : State} {f : List Byte} {a : TxAnswer} (h : step s = .next t)
    (mem : Event.tx f a ∈ t.trace) : Event.tx f a ∈ s.trace ∨ IsMapFrame f := by
  cases step_does h with
  | reset => cases mem
  | codec => exact .inl (by simpa using mem)
  | command _ _ _ _ _ does => exact does.tx_mem mem
  | wait => exact .inl mem
  | buffer => exact .inl (by simpa using mem)
  | resume _ _ _ hp fin => exact fin.tx_mem hp mem
  | init =>
    rcases tx_mem_initTaken.mp mem with old | ⟨rfl, -⟩
    · exact .inl old
    · exact .inr (initFrame_isMapFrame _)
  | initFails =>
    rcases tx_mem_afterInitFailure.mp mem with old | ⟨rfl, -⟩
    · exact .inl old
    · exact .inr (initFrame_isMapFrame _)

/-- Settles O13: a frame a step adds to the TX port is a row of the map, so it has the shape of R62; DECODE's
acceptance is an equivalence in which the markers are free. -/
theorem frameInvariant : Obligations.FrameInvariant := by
  unfold Obligations.FrameInvariant
  constructor
  · intro s t f a h mem
    rw [mem_sentFrames] at mem ⊢
    refine (step_tx_mem h mem).imp_right ?_
    rintro ⟨c, m, p, q, -, rfl⟩
    exact ⟨c, m, p, q, rfl⟩
  · intro buf c m p q
    rw [decodeFrame_eq_ok_iff, checksum_eq_neg]

end Sys2Proof.Machine
end

section
/-! PROOF. The frame codec (40_frame_codec.md): the checksum in R80's equivalent forms, and ENCODE on the
marshaller's output (R81). -/

namespace Sys2Proof.Machine

/-! ## The checksum (R80) -/

/-- R80's form on the unbounded sum: a byte of its negation. -/
theorem checksum_eq_ofInt_neg (c m p q : Byte) :
    checksum c m p q = BitVec.ofInt 8 (-(frameSum c m p q : Int)) := by
  rw [checksum_eq_neg, BitVec.ofInt_neg, BitVec.ofInt_natCast]
  simp [frameSum, Config.stx, BitVec.ofNat_add]

/-- R80's form as a remainder: 256 less the sum mod 256, again mod 256. -/
theorem checksum_toNat (c m p q : Byte) :
    (checksum c m p q).toNat = (256 - frameSum c m p q % 256) % 256 := by
  rw [checksum_eq_ofInt_neg, BitVec.toNat_ofInt]
  omega

/-- R80's unique form: of all bytes the checksum alone brings the sum to 0 mod 256. -/
theorem frameSum_add_mod_eq_zero_iff (c m p q j : Byte) :
    (frameSum c m p q + j.toNat) % 256 = 0 ↔ j = checksum c m p q := by
  rw [← BitVec.toNat_inj, checksum_toNat]
  have j_lt : j.toNat < 256 := j.isLt
  omega

/-- Settles O9: `exec` emits the checksum and nothing else; each form of R80 is a lemma about that byte, and the
source's four examples evaluate. -/
theorem checksumNegatesTheSum : Obligations.ChecksumNegatesTheSum := by
  unfold Obligations.ChecksumNegatesTheSum
  refine ⟨fun c m p q s => ⟨checksum c m p q, rfl, checksum_toNat c m p q,
    checksum_eq_ofInt_neg c m p q, checksum_eq_neg c m p q, frameSum_add_mod_eq_zero_iff c m p q⟩, by decide⟩

/-! ## ENCODE (R81) -/

/-- Settles O10: `exec` emits the marshaller's word and nothing else; unpacked, that word is the frame. -/
theorem encodeBuildsTheFrame : Obligations.EncodeBuildsTheFrame := by
  unfold Obligations.EncodeBuildsTheFrame
  intro c m p q s
  refine ⟨encFrame c m p q, rfl, ?_⟩
  rw [unpack_encFrame, encodeFrame_eq, frameBytes]

end Sys2Proof.Machine
end

section
/-! PROOF. The four bit-field responses (41_response_dispatch.md, R93 to R96): what each handler writes, lane by
lane, and that a response changes nothing but the mirror and the marker warning. -/

namespace Sys2Proof.Machine

/-! ## A response (R50, R92) -/

/-- A response writes the mirror by its handler and shows the marker warning. -/
theorem warnMarkers_applyReport (start stop : Byte) (h : Mirror → Mirror) (s : State) :
    (s.warnMarkers start stop).applyReport h =
      { s with mirror := h s.mirror, trace := s.trace ++ markerEvents start stop } := by
  rw [warnMarkers_eq]
  rfl

/-- Right markers show no warning. -/
theorem markerEvents_of_right {start stop : Byte} (hstart : start = 0x04#8) (hstop : stop = 0x0F#8) :
    markerEvents start stop = [] := by
  simp [markerEvents, hstart, hstop]

/-! ## The handlers, lane by lane -/

/-- `(param1 << 8) | param2` as the 16-bit word of the two bytes' value. -/
theorem secondsOf_eq_ofNat (p q : Byte) : secondsOf p q = BitVec.ofNat 16 (p.toNat * 256 + q.toNat) := by
  rw [← secondsOf_toNat, BitVec.ofNat_toNat, BitVec.setWidth_eq]

theorem h22_buttons_get (m p q : Byte) (r : Mirror) (i : Idx) :
    (h22 m p q r).buttons.get i = { r.buttons.get i with
      mode := if m.getLsbD i.val then .momentary else if p.getLsbD i.val then .toggle
        else if q.getLsbD i.val then .timed else (r.buttons.get i).mode } := by
  simp only [h22, Bank.get_ofFn, bitOf_eq]
  split_ifs <;> rfl

theorem h44_relays_get (m p q : Byte) (r : Mirror) (i : Idx) :
    (h44 m p q r).relays.get i = { r.relays.get i with
      delay := if m.getLsbD i.val then BitVec.ofNat 16 (p.toNat * 256 + q.toNat)
        else (r.relays.get i).delay } := by
  simp only [h44, Bank.get_ofFn, bitOf_eq, secondsOf_eq_ofNat]
  split_ifs <;> rfl

theorem h50_buttons_get (m p q : Byte) (r : Mirror) (i : Idx) :
    (h50 m p q r).buttons.get i = { r.buttons.get i with
      pressed := m.getLsbD i.val
      action := if p.getLsbD i.val then .pressed else if q.getLsbD i.val then .released
        else (r.buttons.get i).action } := by
  simp only [h50, Bank.get_ofFn, bitOf_eq]
  split_ifs <;> rfl

theorem h51_relays_get (m p q : Byte) (r : Mirror) (i : Idx) :
    (h51 m p q r).relays.get i = { r.relays.get i with
      status := p.getLsbD i.val, timerActive := q.getLsbD i.val } := by
  simp only [h51, Bank.get_ofFn, bitOf_eq]

/-! ## The responses (R93 to R96) -/

/-- Settles O15: the response is its handler and the marker warning; the handler writes the buttons lane by
lane. -/
theorem buttonModeReport : Obligations.ButtonModeReport := by
  unfold Obligations.ButtonModeReport
  intro start m p q stop s
  exact ⟨(h22 m p q s.mirror).buttons, markerEvents start stop,
    congrArg Host.Outcome.next (warnMarkers_applyReport start stop (h22 m p q) s),
    markerEvents_of_right, h22_buttons_get m p q s.mirror⟩

/-- Settles O16: the response is its handler and the marker warning; the handler writes the relays lane by lane,
the delay being the value of the two parameter bytes. -/
theorem timerDelayReport : Obligations.TimerDelayReport := by
  unfold Obligations.TimerDelayReport
  intro start m p q stop s
  exact ⟨(h44 m p q s.mirror).relays, markerEvents start stop,
    congrArg Host.Outcome.next (warnMarkers_applyReport start stop (h44 m p q) s),
    markerEvents_of_right, h44_relays_get m p q s.mirror⟩

/-- Settles O17: the response is its handler and the marker warning; the handler writes `pressed` of every lane
and `action` of the lanes with a bit. -/
theorem buttonStatusReport : Obligations.ButtonStatusReport := by
  unfold Obligations.ButtonStatusReport
  intro start m p q stop s
  exact ⟨(h50 m p q s.mirror).buttons, markerEvents start stop,
    congrArg Host.Outcome.next (warnMarkers_applyReport start stop (h50 m p q) s),
    markerEvents_of_right, h50_buttons_get m p q s.mirror⟩

/-- Settles O18: the response is its handler and the marker warning; the handler overwrites both flags of every
lane. -/
theorem relayStatusReport : Obligations.RelayStatusReport := by
  unfold Obligations.RelayStatusReport
  intro start m p q stop s
  exact ⟨(h51 m p q s.mirror).relays, markerEvents start stop,
    congrArg Host.Outcome.next (warnMarkers_applyReport start stop (h51 m p q) s),
    markerEvents_of_right, h51_relays_get m p q s.mirror⟩

end Sys2Proof.Machine
end

section
/-! PROOF. The validation failures (42_host_commands.md R130): which check each operation makes, and the one
result every command accepted in IDLE ends with. -/

namespace Sys2Proof.Machine

/-! ## The checks (R114, R116, R118) -/

/-- The error an instruction's validation gives; `none` where it passes or there is nothing to check. -/
def checkOf (i : Instr) : Option ResCode := (planOf i).bind Plan.check

/-- An instruction with a plan is checked as its plan says. -/
theorem checkOf_of_planOf {i : Instr} {p : Plan} (hp : planOf i = some p) : checkOf i = p.check := by
  rw [checkOf, hp, Option.bind_some]

/-- An instruction without a plan has no check. -/
theorem checkOf_of_planOf_none {i : Instr} (hp : planOf i = none) : checkOf i = none := by
  rw [checkOf, hp, Option.bind_none]

/-- R118's check: of the four mode codes only 3 names no mode (R16). -/
theorem checkOf_setButtonMode : ∀ (id : Idx) (code : BitVec 2),
    checkOf (.setButtonMode id code) = if code = 3 then some .errValMode else none := by decide

/-- R114's and R116's range check. -/
theorem rangeCheck_eq (v : Int) :
    (if secondsInRange v then none else some ResCode.errValRange) =
      if v < 0 ∨ v > 65535 then some .errValRange else none := by
  simp only [secondsInRange, decide_eq_true_eq, ite_not]

theorem checkOf_setDelay (id : Idx) (v : Int) :
    checkOf (.setDelay id v) = if v < 0 ∨ v > 65535 then some .errValRange else none :=
  rangeCheck_eq v

theorem checkOf_startTimer_some (id : Idx) (v : Int) :
    checkOf (.startTimer id (some v)) = if v < 0 ∨ v > 65535 then some .errValRange else none :=
  rangeCheck_eq v

/-- The complete list of failing checks: SET_BUTTON_MODE's mode code, and the seconds of SET_DELAY and of
START_TIMER where they are given. -/
theorem checkOf_eq_some_iff {i : Instr} {e : ResCode} :
    checkOf i = some e ↔
      (e = .errValMode ∧ ∃ id, i = .setButtonMode id 3) ∨
      (e = .errValRange ∧ ∃ (id : Idx) (v : Int), (v < 0 ∨ v > 65535) ∧
        (i = .setDelay id v ∨ i = .startTimer id (some v))) := by
  cases i with
  | setButtonMode id code => simp [checkOf_setButtonMode, eq_comm, and_comm]
  | setDelay id v => simp [checkOf_setDelay, eq_comm, and_comm]
  | startTimer id secs =>
    cases secs with
    | some v => simp [checkOf_startTimer_some, eq_comm, and_comm]
    | none => simp [show checkOf (.startTimer id none) = none from rfl]
  | _ => simp [checkOf, planOf, planRelayOn, planRelayOff, planRelayToggle, planQueryRelayStatus,
      planQueryButtonMode, planQueryJumper, planQueryFirmware, planFactoryReset, planReadFirmwareVersion,
      planReadJumper]

/-! ## The result a command ends with -/

/-- A transaction reports one result, which is no validation error (R142). -/
theorem Transacts.results_eq {frame : List Byte} {r : Mirror} {data : Mirror → ResData} {s t : State}
    (h : Transacts frame r data s t) : ∃ (code : ResCode) (d : ResData),
      (code = .ok ∨ code = .errTransport) ∧ results t = results s ++ [(code, d)] := by
  obtain ⟨-, -, -, -, sent, refused⟩ := h
  cases answer : s.nextAnswer with
  | ok =>
    obtain ⟨-, -, -, result⟩ := sent answer
    exact ⟨_, _, .inl rfl, result⟩
  | error =>
    obtain ⟨-, -, -, result⟩ := refused answer
    exact ⟨_, _, .inr rfl, result⟩

/-- A validation failure reports its own error. -/
theorem Rejects.results_eq {code : ResCode} {s t : State} (h : Rejects code s t) :
    results t = results s ++ [(code, .none)] := by
  obtain ⟨-, -, -, -, -, -, -, result⟩ := h
  exact result

/-- How a command accepted in IDLE can end, by its check: it passes and the result is no validation error,
or it fails and the command is rejected with its error. -/
def EndsByCheck (i : Instr) (code : ResCode) (s t : State) : Prop :=
  (checkOf i = none ∧ (code = .ok ∨ code = .errTransport)) ∨ (checkOf i = some code ∧ Rejects code s t)

/-- Every command accepted in IDLE completes with one result, as its check decides. -/
theorem command_endsByCheck (w : CmdWord) {s : State} (hs : s.phase = .idle) :
    ∃ (t : State) (code : ResCode) (data : ResData), exec (decodeCmd w) s = .next t ∧
      results t = results s ++ [(code, data)] ∧ EndsByCheck (decodeCmd w) code s t := by
  cases hp : planOf (decodeCmd w) with
  | some p =>
    obtain ⟨word, encoded⟩ := encode_planned hp
    rw [exec_planned hp (by simp [hs])]
    cases hc : p.check with
    | none =>
      obtain ⟨t, run, transacts⟩ := transact_transacts hs encoded hc
      obtain ⟨code, data, noError, result⟩ := transacts.results_eq
      exact ⟨t, code, data, run, result, .inl ⟨(checkOf_of_planOf hp).trans hc, noError⟩⟩
    | some e =>
      obtain ⟨t, run, rejects⟩ := transact_rejects hs encoded hc
      exact ⟨t, e, .none, run, rejects.results_eq, .inr ⟨(checkOf_of_planOf hp).trans hc, rejects⟩⟩
  | none =>
    have passes := checkOf_of_planOf_none hp
    obtain ⟨t, run, does⟩ := command_idle w hs
    cases does with
    | operation _ planned => rw [hp] at planned; cases planned
    | read _ _ d => exact ⟨_, .ok, d, run, by simp [results], .inl ⟨passes, .inl rfl⟩⟩
    | close =>
      exact ⟨_, .ok, .none, run, by simp [results, List.filterMap_cons], .inl ⟨passes, .inl rfl⟩⟩
    | closeAgain closed => rw [hs] at closed; cases closed

/-- A validation error is reported exactly when it is the check's. -/
theorem EndsByCheck.code_eq_iff {i : Instr} {code e : ResCode} {s t : State} (h : EndsByCheck i code s t)
    (he : e = .errValMode ∨ e = .errValRange) : code = e ↔ checkOf i = some e := by
  rcases h with ⟨passes, noError⟩ | ⟨fails, -⟩
  · rw [passes]
    rcases he with rfl | rfl <;> rcases noError with rfl | rfl <;> simp
  · rw [fails, Option.some_inj]

/-- A validation error is reported by a rejection only. -/
theorem EndsByCheck.rejects {i : Instr} {code : ResCode} {s t : State} (h : EndsByCheck i code s t)
    (he : code = .errValMode ∨ code = .errValRange) : Rejects code s t := by
  have fails := (h.code_eq_iff he).mp rfl
  rcases h with ⟨passes, -⟩ | ⟨-, rejects⟩
  · rw [passes] at fails
    cases fails
  · exact rejects

/-- Settles O36: a command ends as its check decides, and the list of failing checks is complete. -/
theorem validationFailuresComplete : Obligations.ValidationFailuresComplete := by
  unfold Obligations.ValidationFailuresComplete
  intro w s hs
  obtain ⟨t, code, data, run, result, ends⟩ := command_endsByCheck w hs
  refine ⟨t, code, data, run, result, ?_, ?_, ends.rejects⟩
  · rw [ends.code_eq_iff (.inl rfl), checkOf_eq_some_iff]
    simp
  · rw [ends.code_eq_iff (.inr rfl), checkOf_eq_some_iff]
    simp

end Sys2Proof.Machine
end

section
/-! PROOF. Decoding inverts encoding (30_encoding.md sections 1, 2 and 4): at the command port, in the receive
buffer, in INIT's sequence and at the codec's ports; the unit's own frames read back; words of the table. -/

namespace Sys2Proof.Machine

/-! ## The receive decoder (R60, R67, R69) -/

/-- A frame with the checksum that makes it acceptable is read as the response its command byte selects. -/
theorem decodeRx_rxFrame (s c m p q e : Byte) : decodeRx (rxFrame s c m p q e) = .instr (responseOf s c m p q e) := by
  rw [rxFrame, decodeRx, if_pos rfl]

/-- A command byte that is none of the six recognised ones selects RSP_UNKNOWN. -/
theorem responseOf_unknown {c : Byte} (h : c ∉ responseCodes) (s m p q e : Byte) :
    responseOf s c m p q e = .rspUnknown s c m p q e := by
  simp only [responseCodes, List.mem_cons, List.not_mem_nil, or_false, not_or] at h
  simp [responseOf, h]

/-- RSP_UNKNOWN is well formed exactly when no other row has its command byte. -/
theorem rspUnknown_wellFormed_iff {s c m p q e : Byte} :
    (Instr.rspUnknown s c m p q e).WellFormed ↔ c ∉ responseCodes := by
  simp [Instr.WellFormed, Instr.wellFormed]

/-! ## The command port (R73) -/

/-- Seconds that fit the operand field are read back from its 32 bits. -/
theorem toInt_ofInt_of_fitsOperand {v : Int} (h : FitsOperand v) : (BitVec.ofInt 32 v).toInt = v :=
  BitVec.toInt_ofInt_eq_self (by decide) h.1 h.2

/-- Settles O6: a command word gives back its fields, a received frame the response of its command byte, the
others evaluate. -/
theorem decodeInvertsEncode : Obligations.DecodeInvertsEncode := by
  unfold Obligations.DecodeInvertsEncode
  intro i wf
  cases i with
  | startTimer id secs =>
    cases secs with
    | none => rfl
    | some v =>
      have fits : FitsOperand v := of_decide_eq_true wf
      show Decoded.instr (.startTimer id (some (BitVec.ofInt 32 v).toInt)) = _
      rw [toInt_ofInt_of_fitsOperand fits]
  | setDelay id v =>
    have fits : FitsOperand v := of_decide_eq_true wf
    show Decoded.instr (.setDelay id (BitVec.ofInt 32 v).toInt) = _
    rw [toInt_ofInt_of_fitsOperand fits]
  | rspUnknown s c m p q e =>
    show decodeRx (rxFrame s c m p q e) = _
    rw [decodeRx_rxFrame, responseOf_unknown (rspUnknown_wellFormed_iff.mp wf)]
  | rspButtonMode s m p q e => exact decodeRx_rxFrame s 0x22#8 m p q e
  | rspTimerDelay s m p q e => exact decodeRx_rxFrame s 0x44#8 m p q e
  | rspButtonStatus s m p q e => exact decodeRx_rxFrame s 0x50#8 m p q e
  | rspRelayStatus s m p q e => exact decodeRx_rxFrame s 0x51#8 m p q e
  | rspJumper s m p q e => exact decodeRx_rxFrame s 0x70#8 m p q e
  | rspFirmware s m p q e => exact decodeRx_rxFrame s 0x71#8 m p q e
  | initQueryTimerDelay => decide
  | _ => rfl

/-- The word an instruction stands as at the command port is decoded to it. -/
theorem decodeCmd_of_encode {i : Instr} {w : CmdWord} (hw : encode i = .cmd w) (wf : i.WellFormed) :
    decodeCmd w = i := by
  have inverse := decodeInvertsEncode i wf
  rw [hw] at inverse
  exact Decoded.instr.inj inverse

/-! ## The unit's own frames (R66) -/

/-- A frame with the markers and the checksum of ENCODE is read by its four payload bytes. -/
theorem decodeTx_frameBytes (c m p q : Byte) : decodeTx (frameBytes c m p q) = sentRow c m p q := by
  rw [← encodeFrame_eq, encodeFrame, decodeTx, if_pos ⟨rfl, rfl, rfl⟩]

/-- The relay of a one-bit mask. -/
theorem relayOfMask_oneBit : ∀ id : Idx, relayOfMask (1#8 <<< id.val) = some id := by decide

/-- Two bytes joined, high byte first. -/
theorem append_toNat (p q : Byte) : (p ++ q).toNat = p.toNat * 256 + q.toNat := by
  rw [BitVec.toNat_append, ← Nat.shiftLeft_add_eq_or_of_lt q.isLt, Nat.shiftLeft_eq]

/-- Settles O7: the relay by its one-bit mask, the seconds by their two bytes, the fixed frames by evaluation. -/
theorem sentFramesNameTheirOperation : Obligations.SentFramesNameTheirOperation := by
  unfold Obligations.SentFramesNameTheirOperation
  simp only [decodeTx_frameBytes]
  refine ⟨fun id => ?_, fun id p q => ?_, by decide⟩
  · simp [sentRow, relayOfMask_oneBit]
  · simp [sentRow, relayOfMask_oneBit, append_toNat]

/-! ## Words of the opcode table -/

/-- Settles O5: ten words, each evaluated. -/
theorem opcodeWordsDecode : Obligations.OpcodeWordsDecode := by
  unfold Obligations.OpcodeWordsDecode
  decide

end Sys2Proof.Machine
end

section
/-! PROOF. Reset and the invariants (10_state.md sections 5 and 8, 43_sync_sequencer.md): what a reset leaves, and
that every step keeps each of the four invariants. -/

namespace Sys2Proof.Machine

/-! ## Reset (R28, R190, R192) -/

/-- A step with the reset pin high is a reset. -/
theorem step_of_rst {s : State} (h : s.rst = true) : step s = .next s.applyReset := by
  simp [step, fetch, h]

/-- Settles O45: every entry of a reset register file is the same, and the rest evaluates. -/
theorem resetValues : Obligations.ResetValues := by
  unfold Obligations.ResetValues
  refine ⟨fun i => ⟨Bank.get_replicate _ i, Bank.get_replicate _ i, rfl, rfl⟩, by decide⟩

/-- Settles O46: the step is a reset, whose next state is written out. -/
theorem resetInAnyPhase : Obligations.ResetInAnyPhase := by
  unfold Obligations.ResetInAnyPhase
  exact fun s h => ⟨_, step_of_rst h, rfl, rfl, rfl, rfl, rfl, ⟨rfl, rfl, rfl⟩, rfl, rfl, rfl, rfl, rfl, rfl⟩

/-- The invariants speak of no input, so a reset in any state leaves what the first reset leaves. -/
theorem invariants_applyReset (s : State) :
    SeqInv s.applyReset ∧ SentInv s.applyReset ∧ CloseInv s.applyReset ∧ ResultInv s.applyReset := by
  simp [SeqInv, SentInv, CloseInv, ResultInv, closePulses, midOperation, State.applyReset, State.reset]

/-- Settles O51: no output has been shown and the unit is at the head of INIT. -/
theorem invariantsHoldAtReset : Obligations.InvariantsHoldAtReset := by
  unfold Obligations.InvariantsHoldAtReset
  exact invariants_applyReset State.reset

/-! ## The sequencer (R23, R24, R140) -/

/-- An operation in progress stands in none of the other phases. -/
theorem phase_ne_of_midOperation {s : State} {q : Phase} (mid : midOperation s.phase = true)
    (hq : midOperation q = false) : s.phase ≠ q := by
  rintro rfl
  rw [mid] at hq
  cases hq

/-- Consistency is a property of four registers. -/
theorem SeqInv.congr {s t : State} (h : SeqInv s) (hclosed : t.closed = s.closed) (hphase : t.phase = s.phase)
    (hinit : t.initAt = s.initAt) (hreg : t.cmdReg = s.cmdReg) : SeqInv t := by
  simpa [SeqInv, currentPlan, hclosed, hphase, hinit, hreg] using h

/-- Consistency in IDLE. -/
theorem seqInv_of_idle {s : State} (hs : s.phase = .idle) (hclosed : s.closed = false)
    (hinit : s.initAt = .relayStatus) : SeqInv s := by
  simp [SeqInv, hs, hclosed, hinit, midOperation]

/-- Consistency in CLOSED. -/
theorem seqInv_of_closed {s : State} (hs : s.phase = .closed) (hclosed : s.closed = true)
    (hinit : s.initAt = .relayStatus) : SeqInv s := by
  simp [SeqInv, hs, hclosed, hinit, midOperation]

/-- Outside CLOSED a consistent unit has not been closed. -/
theorem SeqInv.not_closed {s : State} (h : SeqInv s) (hs : s.phase ≠ .closed) : s.closed = false := by
  obtain ⟨closed_iff, -, -⟩ := h
  exact Bool.eq_false_iff.mpr fun closed => hs (closed_iff.mp closed)

/-- Outside INIT a consistent unit stands at the first place of INIT. -/
theorem SeqInv.initAt_eq {s : State} (h : SeqInv s) (hs : s.phase ≠ .init) : s.initAt = .relayStatus := by
  obtain ⟨-, first, -⟩ := h
  exact first hs

/-- An operation that ends leaves the unit consistent in IDLE. -/
theorem Finishes.seqInv {p : Plan} {s t : State} (h : Finishes p s t) (inv : SeqInv s)
    (hclosed : s.phase ≠ .closed) (hinit : s.phase ≠ .init) : SeqInv t :=
  seqInv_of_idle h.phase (h.closed.trans (inv.not_closed hclosed)) (h.initAt.trans (inv.initAt_eq hinit))

/-- A command keeps the unit consistent. -/
theorem CommandDoes.seqInv {i : Instr} {s t : State} (h : CommandDoes i s t) (inv : SeqInv s) : SeqInv t := by
  cases h with
  | operation hs _ fin => exact fin.seqInv inv (by simp [hs]) (by simp [hs])
  | read => exact inv.congr rfl rfl rfl rfl
  | close hs => exact seqInv_of_closed rfl rfl (inv.initAt_eq (by simp [hs]))
  | closeAgain => exact inv.congr rfl rfl rfl rfl

/-- A frame of INIT that is taken leaves the unit at the next place of INIT, or in IDLE after the third. -/
theorem seqInv_initTaken {s : State} (hs : s.phase = .init) (inv : SeqInv s) : SeqInv (initTaken s) := by
  have hclosed : s.closed = false := inv.not_closed (by simp [hs])
  cases slot : s.initAt <;> simp [initTaken, slot, afterInitFrame, SeqInv, hs, hclosed, midOperation]

/-- Settles O47: by cases on what a step can do; an operation in progress comes from the command register alone,
which no step but an accepted command writes. -/
theorem sequencerInvariantIsKept : Obligations.SequencerInvariantIsKept := by
  unfold Obligations.SequencerInvariantIsKept
  intro s t inv h
  cases step_does h with
  | reset =>
    obtain ⟨kept, -, -, -⟩ := invariants_applyReset s
    exact kept
  | codec => exact inv.congr rfl rfl rfl rfl
  | command _ _ _ _ _ does => exact does.seqInv (inv.congr rfl rfl rfl rfl)
  | wait => exact inv
  | buffer => exact inv.congr rfl rfl rfl rfl
  | resume _ _ mid _ fin =>
    exact fin.seqInv inv (phase_ne_of_midOperation mid rfl) (phase_ne_of_midOperation mid rfl)
  | init _ _ hs => exact seqInv_initTaken hs inv
  | initFails => exact seqInv_of_closed rfl rfl rfl

/-! ## The frames sent (R62, R66) -/

/-- Settles O48: a frame on the TX port was there before or is a row of the map. -/
theorem sentFramesInvariantIsKept : Obligations.SentFramesInvariantIsKept := by
  unfold Obligations.SentFramesInvariantIsKept
  intro s t inv h f a mem
  rcases step_tx_mem h mem with old | new
  · exact inv f a old
  · exact new

/-! ## The close output (R149) -/

/-- An operation gives no close pulse. -/
theorem Finishes.closePulses_eq {p : Plan} {s t : State} (h : Finishes p s t) : closePulses t = closePulses s := by
  obtain ⟨evs, trace_eq, shows⟩ := h.trace
  have none_shown : evs.count Event.closePulse = 0 := List.count_eq_zero.mpr (shows _)
  rw [closePulses, closePulses, trace_eq, List.count_append, none_shown, Nat.add_zero]

/-- What a step but a reset does on the close output: nothing, and a CLOSED unit stays CLOSED; or one pulse, from
IDLE to CLOSED. -/
def ClosesOnce (s t : State) : Prop :=
  (closePulses t = closePulses s ∧ (s.phase = .closed → t.phase = .closed)) ∨
  (s.phase = .idle ∧ t.phase = .closed ∧ closePulses t = closePulses s + 1)

/-- A command on the close output. -/
theorem CommandDoes.closesOnce {i : Instr} {s t : State} (h : CommandDoes i s t) : ClosesOnce s t := by
  cases h with
  | operation hs _ fin => exact .inl ⟨fin.closePulses_eq, by simp [hs]⟩
  | read => exact .inl ⟨by simp [closePulses], id⟩
  | close hs => exact .inr ⟨hs, rfl, by simp [closePulses]⟩
  | closeAgain => exact .inl ⟨by simp [closePulses], id⟩

/-- A frame of INIT that is taken gives no close pulse. -/
theorem closePulses_initTaken (s : State) : closePulses (initTaken s) = closePulses s := by
  cases slot : s.initAt <;> simp [initTaken, slot, afterInitFrame, closePulses]

/-- A step on the close output. -/
theorem step_closesOnce {s t : State} (hr : s.rst = false) (h : step s = .next t) : ClosesOnce s t := by
  cases step_does h with
  | reset high => rw [hr] at high; cases high
  | codec => exact .inl ⟨by simp [closePulses], id⟩
  | command _ _ _ _ _ does => exact does.closesOnce
  | wait => exact .inl ⟨rfl, id⟩
  | buffer => exact .inl ⟨by simp [closePulses, List.count_eq_zero], id⟩
  | resume _ _ mid _ fin =>
    exact .inl ⟨fin.closePulses_eq, fun hs => absurd hs (phase_ne_of_midOperation mid rfl)⟩
  | init _ _ hs => exact .inl ⟨closePulses_initTaken s, by simp [hs]⟩
  | initFails => exact .inl ⟨by simp [closePulses, afterInitFailure], fun _ => rfl⟩

/-- Settles O49: the one pulse comes in IDLE, where there was none, and leads to CLOSED, which no step but a reset
leaves. -/
theorem closeOnceInvariantIsKept : Obligations.CloseOnceInvariantIsKept := by
  unfold Obligations.CloseOnceInvariantIsKept
  rintro s t ⟨at_most_one, none_before⟩ h
  cases hr : s.rst with
  | true =>
    rw [step_of_rst hr] at h
    cases h
    obtain ⟨-, -, kept, -⟩ := invariants_applyReset s
    exact kept
  | false =>
    rcases step_closesOnce hr h with ⟨same, stays⟩ | ⟨idle, closed, one_more⟩
    · exact ⟨same.trans_le at_most_one, fun open_after => same.trans (none_before fun hs => open_after (stays hs))⟩
    · have none_yet := none_before (by simp [idle])
      exact ⟨by omega, fun open_after => absurd closed open_after⟩

/-! ## The result port (R161) -/

/-- The codes that the operations produce (R130, R142). -/
def IsProduced (code : ResCode) : Prop := code ≠ .errValType ∧ code ≠ .errValBool

/-- An operation reports a produced code. -/
theorem Finishes.result_mem {i : Instr} {p : Plan} {s t : State} {c : ResCode} {d : ResData}
    (h : Finishes p s t) (hp : planOf i = some p) (mem : Event.result c d ∈ t.trace) :
    Event.result c d ∈ s.trace ∨ IsProduced c := by
  obtain ⟨evs, trace_eq, shows⟩ := h.trace
  rw [trace_eq, List.mem_append] at mem
  rcases mem with old | new
  · exact .inl old
  · right
    rcases shows _ new with rfl | rfl | checked
    · simp [IsProduced]
    · simp [IsProduced]
    · rcases check_cases hp checked with rfl | rfl <;> simp [IsProduced]

/-- A command reports a produced code. -/
theorem CommandDoes.result_mem {i : Instr} {s t : State} {c : ResCode} {d : ResData}
    (h : CommandDoes i s t) (mem : Event.result c d ∈ t.trace) : Event.result c d ∈ s.trace ∨ IsProduced c := by
  cases h with
  | operation _ hp fin => exact fin.result_mem hp mem
  | _ =>
    simp only [List.mem_append, List.mem_cons, Event.result.injEq, reduceCtorEq, List.not_mem_nil, false_or,
      or_false] at mem
    exact mem.imp_right fun new => by simp [IsProduced, new.1]

/-- Every result a step reports has a produced code. -/
theorem step_result_mem {s t : State} {c : ResCode} {d : ResData} (h : step s = .next t)
    (mem : Event.result c d ∈ t.trace) : Event.result c d ∈ s.trace ∨ IsProduced c := by
  cases step_does h with
  | reset => cases mem
  | codec => exact .inl (by simpa using mem)
  | command _ _ _ _ _ does => exact does.result_mem mem
  | wait => exact .inl mem
  | buffer => exact .inl (by simpa using mem)
  | resume _ _ _ hp fin => exact fin.result_mem hp mem
  | init =>
    left
    cases slot : s.initAt <;> simpa [initTaken, slot, afterInitFrame, drainDiags] using mem
  | initFails =>
    have mem' : Event.result c d ∈ s.trace ∨ c = .errTransport ∧ d = .none := by
      simpa [afterInitFailure] using mem
    exact mem'.imp_right fun new => by simp [IsProduced, new.1]

/-- Settles O50: a result on the port was there before or has a produced code. -/
theorem unusedResultsInvariantIsKept : Obligations.UnusedResultsInvariantIsKept := by
  unfold Obligations.UnusedResultsInvariantIsKept
  intro s t inv h c d mem
  rcases step_result_mem h mem with old | new
  · exact inv c d old
  · exact new

/-! ## Properties of the mirror (R19 to R21) -/

/-- No report writes INACTIVE. -/
theorem applyFrame_action_ne_inactive (i : Idx) (c m p q : Byte) (r : Mirror)
    (h : (r.buttons.get i).action ≠ .inactive) : ((applyFrame c m p q r).buttons.get i).action ≠ .inactive := by
  unfold applyFrame
  split_ifs
  · rw [h22_buttons_get]; exact h
  · exact h
  · rw [h50_buttons_get]; dsimp only; split_ifs <;> simp [h]
  all_goals exact h

/-- No local update writes an action. -/
theorem update_action {i : Instr} {p : Plan} {u : Mirror → Mirror} (hp : planOf i = some p) (hu : p.update = some u)
    (r : Mirror) (j : Idx) : ((u r).buttons.get j).action = (r.buttons.get j).action := by
  rcases update_cases hp hu with ⟨id, secs, -, rfl⟩ | ⟨id, code, -, rfl⟩
  · rfl
  · cases modeOfCode code with
    | none => rfl
    | some v =>
      simp only [Mirror.setButton, Bank.get_set]
      split
      next same => rw [same]
      next => rfl

/-- Settles O52: every report and every local update keeps an action that is not INACTIVE so. -/
theorem actionNeverReturnsToInactive : Obligations.ActionNeverReturnsToInactive := by
  unfold Obligations.ActionNeverReturnsToInactive
  intro s t i hr h inactive
  by_contra active
  refine mirror_kept (fun r => (r.buttons.get i).action ≠ .inactive) (applyFrame_action_ne_inactive i) ?_ hr h active
    inactive
  intro j p u r hp hu kept
  rwa [update_action hp hu]

/-- A report clears neither valid bit. -/
theorem applyFrame_valid (c m p q : Byte) (r : Mirror) :
    (fwValid r = true → fwValid (applyFrame c m p q r) = true) ∧
    (jpValid r = true → jpValid (applyFrame c m p q r) = true) := by
  unfold applyFrame
  split_ifs <;> simp [fwValid, jpValid, h22, h44, h50, h51, h70, h71]

/-- A local update writes neither FWVER nor JUMPER. -/
theorem update_valid {i : Instr} {p : Plan} {u : Mirror → Mirror} (hp : planOf i = some p) (hu : p.update = some u)
    (r : Mirror) : fwValid (u r) = fwValid r ∧ jpValid (u r) = jpValid r := by
  rcases update_cases hp hu with ⟨id, secs, -, rfl⟩ | ⟨id, code, -, rfl⟩
  · exact ⟨rfl, rfl⟩
  · cases modeOfCode code <;> exact ⟨rfl, rfl⟩

/-- Settles O53: every report and every local update keeps a valid bit that is set. -/
theorem validBitsStaySet : Obligations.ValidBitsStaySet := by
  unfold Obligations.ValidBitsStaySet
  intro s t hr h
  constructor
  · exact mirror_kept (fun r => fwValid r = true) (fun c m p q r => (applyFrame_valid c m p q r).1)
      (fun hp hu kept => (update_valid hp hu _).1.trans kept) hr h
  · exact mirror_kept (fun r => jpValid r = true) (fun c m p q r => (applyFrame_valid c m p q r).2)
      (fun hp hu kept => (update_valid hp hu _).2.trans kept) hr h

end Sys2Proof.Machine
end

section
/-! PROOF. The frame codec on its ports (40_frame_codec.md): DECODE's answer, the laws of R85, and the forms of
R88. -/

namespace Sys2Proof.Machine

/-! ## DECODE (R82 to R86) -/

/-- The marker flag of seven bytes. -/
theorem markerMismatch_seven (b0 c m p q k b6 : Byte) :
    markerMismatch [b0, c, m, p, q, k, b6] = decide (b0 ≠ 0x04#8 ∨ b6 ≠ 0x0F#8) :=
  rfl

/-- DECODE of a byte sequence puts its answer and the marker flag on the codec's output. -/
theorem exec_decodeOf (buf : List Byte) (s : State) :
    exec (.decodeOf buf) s = .next { s with
      trace := s.trace ++ [Event.codecOut (.decoded (decodeFrame buf) (markerMismatch buf))] } := by
  rw [← validate_validatorIn, ← decMarkerWarn_validatorIn]
  rfl

/-- Settles O11: the answer on the ports is DECODE's of the sequence, by its length and its checksum. -/
theorem decodeAnswersByLengthThenChecksum : Obligations.DecodeAnswersByLengthThenChecksum := by
  unfold Obligations.DecodeAnswersByLengthThenChecksum
  constructor
  · intro buf s length_ne
    rw [exec_decodeOf, decodeFrame_length length_ne, markerMismatch_length length_ne]
  · intro b0 c m p q k b6 s
    rw [exec_decodeOf, decodeFrame_seven, markerMismatch_seven, checksum_eq_neg]

/-! ## The laws of the codec (R84, R85) -/

/-- Acceptance of seven bytes as an equation of byte 5. -/
theorem decodeFrame_seven_eq_ok_iff (b0 c m p q k b6 : Byte) :
    decodeFrame [b0, c, m, p, q, k, b6] = .ok c m p q ↔ k = checksum c m p q := by
  rw [decodeFrame_seven]
  split <;> simp_all

/-- A seven-byte buffer that is not accepted gives the checksum error. -/
theorem decodeFrame_seven_eq_checksumError {b0 c m p q k b6 : Byte} (h : k ≠ checksum c m p q) :
    decodeFrame [b0, c, m, p, q, k, b6] = .checksumError := by
  rw [decodeFrame_seven, if_neg h]

/-- R84's form in 8-bit wrap-around arithmetic: the five bytes and 0x04 sum to zero. -/
theorem eq_checksum_iff_sum (c m p q k : Byte) :
    k = checksum c m p q ↔ c + m + p + q + k = 0 - 0x04#8 := by
  rw [checksum_eq_neg]
  constructor <;> intro h <;> bv_omega

/-- A flipped bit changes the byte. -/
theorem xor_oneBit_ne (x : Byte) {j : Nat} (hj : j < 8) : x ^^^ 1#8 <<< j ≠ x := by
  have nonzero : 1#8 <<< j ≠ 0#8 := by interval_cases j <;> decide
  exact fun same => nonzero (BitVec.xor_right_inj x |>.mp (same.trans (BitVec.xor_zero).symm))

/-- Settles O12: each law is about the one sum in which the five bytes stand alike. -/
theorem codecLaws : Obligations.CodecLaws := by
  unfold Obligations.CodecLaws
  refine ⟨fun c m p q => ?_, fun b0 c m p q k b6 j hj accepted => ?_, fun b0 c m p q k b6 b0' b6' => rfl,
    fun b0 c m p q k b6 c' m' p' q' k' same_sum => ?_, fun b0 c m p q b6 => ⟨checksum c m p q, fun j => ?_⟩⟩
  · exact (decodeFrame_seven_eq_ok_iff ..).mpr rfl
  · rw [decodeFrame_seven_eq_ok_iff, eq_checksum_iff_sum] at accepted
    have flips := fun x : Byte => xor_oneBit_ne x hj
    refine ⟨?_, ?_, ?_, ?_, ?_⟩ <;> apply decodeFrame_seven_eq_checksumError <;> rw [Ne, eq_checksum_iff_sum] <;>
      intro still
    · exact flips k (by bv_omega)
    · exact flips c (by bv_omega)
    · exact flips m (by bv_omega)
    · exact flips p (by bv_omega)
    · exact flips q (by bv_omega)
  · rw [decodeFrame_seven_eq_ok_iff, decodeFrame_seven_eq_ok_iff, eq_checksum_iff_sum, eq_checksum_iff_sum, same_sum]
  · exact decodeFrame_seven_eq_ok_iff ..

/-- Settles O14: R80's unique form of the checksum is R84's sum. -/
theorem acceptanceIsASumOfFiveBytes : Obligations.AcceptanceIsASumOfFiveBytes := by
  unfold Obligations.AcceptanceIsASumOfFiveBytes
  intro b0 c m p q k b6
  rw [decodeFrame_seven_eq_ok_iff, ← frameSum_add_mod_eq_zero_iff]
  rfl

/-! ## The ports (R88) -/

/-- The validator's answer on a count of seven, whatever the word. -/
theorem validate_seven (w : FrameBits) : validate { len := 7, bits := w } = decodeFrame (unpackFrame w) := by
  rw [validate, if_pos rfl]

/-- The validator's answer on any other count. -/
theorem validate_length {len : Nat} (h : len ≠ 7) (w : FrameBits) :
    validate { len := len, bits := w } = .lengthError := by
  rw [validate, if_neg h]

/-- Byte i of a sequence stands in bits 55 - 8i to 48 - 8i. -/
theorem packFrame_extractLsb' (buf : List Byte) {i : Nat} (hi : i < 7) :
    (packFrame buf).extractLsb' (48 - 8 * i) 8 = buf.getD i 0 := by
  have bytes := unpack_pack (buf.getD 0 0) (buf.getD 1 0) (buf.getD 2 0) (buf.getD 3 0) (buf.getD 4 0)
    (buf.getD 5 0) (buf.getD 6 0)
  change unpackFrame (packFrame buf) = _ at bytes
  simp only [unpackFrame, List.cons.injEq, and_true] at bytes
  obtain ⟨h0, h1, h2, h3, h4, h5, h6⟩ := bytes
  interval_cases i <;> assumption

/-- Settles O60: ENCODE's word unpacks to the frame, the validator reads the word by its count, a sequence is
packed byte by byte, and DECODE gives one of three answers. -/
theorem codecPortForms : Obligations.CodecPortForms := by
  unfold Obligations.CodecPortForms
  refine ⟨fun c m p q s => ⟨encFrame c m p q, rfl, ?_⟩, fun len w s length_ne => ?_, ?_, fun buf => ?_, fun buf => ?_⟩
  · have bytes := unpack_encFrame c m p q
    rw [encodeFrame_eq] at bytes
    simpa only [unpackFrame, frameBytes, List.cons.injEq, and_true] using bytes
  · rw [← validate_length length_ne w,
      show false = decMarkerWarn { len := len, bits := w } by simp [decMarkerWarn, length_ne]]
    rfl
  · rintro w c m p q s rfl rfl rfl rfl
    rw [← checksum_eq_neg, ← decodeFrame_seven (w.extractLsb' 48 8) _ _ _ _ _ (w.extractLsb' 0 8)]
    rfl
  · exact ⟨packFrame buf, rfl, fun i hi _ => packFrame_extractLsb' buf hi⟩
  · cases answer : decodeFrame buf <;> simp [decOk, decLenErr, decSumErr, answer]

end Sys2Proof.Machine
end

section
/-! PROOF. Receive processing (41_response_dispatch.md, 60_exceptions.md, 20_memory.md section 5): one buffer of a
drain, the two property reports, unknown and rejected buffers, and what the handlers have in common. -/

namespace Sys2Proof.Machine

/-! ## RxProcess by its parts (R90) -/

/-- RxProcess writes the mirror by its buffer alone. -/
theorem rxProcess_mirror (buf : List Byte) (s : State) : (rxProcess buf s).mirror = mirrorAfter buf s.mirror := by
  rw [rxProcess_eq]

/-- RxProcess appends the diagnostics of its buffer. -/
theorem rxProcess_diagnostics (buf : List Byte) (s : State) :
    diagnostics (rxProcess buf s) = diagnostics s ++ diagsOf buf := by
  have own : ((diagsOf buf).map Event.diag).filterMap diagOf = diagsOf buf := by
    simpa [drainDiags] using filterMap_diag_drain [buf]
  rw [rxProcess_eq, diagnostics, List.filterMap_append, own, diagnostics]

/-- RxProcess of a buffer of another length than seven: the LENGTH diagnostic and nothing else. -/
theorem rxProcess_length {buf : List Byte} (h : buf.length ≠ 7) (s : State) :
    rxProcess buf s = { s with
      trace := s.trace ++ [Event.diag { code := .length, info := BitVec.ofNat 16 (min buf.length 255) }] } := by
  rw [rxProcess_eq]
  simp [mirrorAfter, diagsOf, decodeFrame_length h, markerMismatch_length h]

/-- RxProcess of seven bytes with a wrong checksum: the marker warning, the CHECKSUM diagnostic and nothing else. -/
theorem rxProcess_checksumError {c m p q k : Byte} (h : k ≠ checksum c m p q) (b0 b6 : Byte) (s : State) :
    rxProcess [b0, c, m, p, q, k, b6] s = { s with
      trace := s.trace ++ markerEvents b0 b6 ++
        [Event.diag { code := .checksum, info := k ++ checksum c m p q }] } := by
  simp [rxProcess, h, warnMarkers_eq, State.emitDiag, State.emit]

/-- RxProcess of a valid frame: the marker warning, then DISPATCH. -/
theorem rxProcess_valid (b0 c m p q b6 : Byte) (s : State) :
    rxProcess [b0, c, m, p, q, checksum c m p q, b6] s = dispatch c m p q (s.warnMarkers b0 b6) := by
  simp [rxProcess]

/-- RxProcess of a frame of the unit's own making: DISPATCH with no warning. -/
theorem rxProcess_frameBytes (c m p q : Byte) (s : State) : rxProcess (frameBytes c m p q) s = dispatch c m p q s := by
  rw [← encodeFrame_eq, encodeFrame, rxProcess_valid]
  simp [State.warnMarkers]

/-- What a valid frame makes of the mirror. -/
theorem mirrorAfter_valid (b0 c m p q b6 : Byte) (r : Mirror) :
    mirrorAfter [b0, c, m, p, q, checksum c m p q, b6] r = applyFrame c m p q r := by
  simp [mirrorAfter, decodeFrame_seven]

/-- A buffer DECODE rejects makes nothing of the mirror. -/
theorem mirrorAfter_rejected {buf : List Byte} (h : decOk buf = false) (r : Mirror) : mirrorAfter buf r = r := by
  unfold decOk at h
  unfold mirrorAfter
  cases answer : decodeFrame buf <;> simp_all

/-! ## A buffer of a drain in progress (R144) -/

/-- Settles O4: the step is RxProcess of the buffer it reads. -/
theorem bufferOfADrainIsProcessed : Obligations.BufferOfADrainIsProcessed := by
  unfold Obligations.BufferOfADrainIsProcessed
  intro s hr hq hs waiting
  rw [step_buffer hr hq hs waiting, rxProcess_eq]
  rfl

/-- A read that returns bytes had bytes before it. -/
theorem rxQueue_ne_nil_of_nextRead {s : State} (h : s.nextRead ≠ []) : s.rxQueue ≠ [] := by
  intro empty
  simp [State.nextRead, readBuffer, empty] at h

/-- Settles O22: the step is RxProcess, which answers a rejected buffer with its diagnostics only; a read is short
enough that its length is not cut. -/
theorem rejectedBuffersChangeNoRegister : Obligations.RejectedBuffersChangeNoRegister := by
  unfold Obligations.RejectedBuffersChangeNoRegister
  constructor
  · intro s hr hq hs waiting length_ne
    have short : s.nextRead.length ≤ 7 := readBuffer_length_le _ _
    rw [step_buffer hr hq hs waiting, rxProcess_length length_ne, Nat.min_eq_left (by omega)]
    rfl
  · intro s b0 c m p q k b6 hr hq hs read wrong
    have waiting : s.rxQueue ≠ [] := rxQueue_ne_nil_of_nextRead (by simp [read])
    rw [← checksum_eq_neg] at wrong ⊢
    rw [step_buffer hr hq hs waiting, read, rxProcess_checksumError wrong]
    rfl

/-! ## The responses beside the bit fields (R97 to R99) -/

/-- Settles O20: the response is its handler and the marker warning. -/
theorem jumperAndFirmwareReports : Obligations.JumperAndFirmwareReports := by
  unfold Obligations.JumperAndFirmwareReports
  intro start m p q stop s
  refine ⟨?_, ?_, rfl⟩
  · have set_iff : p.toNat ≥ 1 ↔ p ≠ 0 := by
      rw [ge_iff_le, Nat.one_le_iff_ne_zero, Ne, Ne, ← BitVec.toNat_inj]
      rfl
    refine congrArg Host.Outcome.next ((warnMarkers_applyReport start stop (h70 m p q) s).trans ?_)
    rw [h70, decide_eq_decide.mpr set_iff]
  · exact congrArg Host.Outcome.next (warnMarkers_applyReport start stop (h71 m p q) s)

/-- Settles O21: the frame is read by its command byte, and RSP_UNKNOWN reports it and writes nothing. -/
theorem unknownResponseIsReportedAndDropped : Obligations.UnknownResponseIsReportedAndDropped := by
  unfold Obligations.UnknownResponseIsReportedAndDropped
  intro start c m p q stop s n22 n44 n50 n51 n70 n71
  have unknown : c ∉ responseCodes := by simp [responseCodes, n22, n44, n50, n51, n70, n71]
  constructor
  · rw [← checksum_eq_neg, ← responseOf_unknown unknown]
    exact decodeRx_rxFrame start c m p q stop
  · show Host.Outcome.next ((s.warnMarkers start stop).reportUnknown c) = _
    rw [warnMarkers_eq]
    rfl

/-- Settles O19: each of the six is its handler and the marker warning. -/
theorem reportsShowMarkerWarningsOnly : Obligations.ReportsShowMarkerWarningsOnly := by
  unfold Obligations.ReportsShowMarkerWarningsOnly
  intro start m p q stop s i six
  have shown : ∀ h : Mirror → Mirror,
      ((s.warnMarkers start stop).applyReport h).trace = s.trace ++ markerEvents start stop := by
    intro h
    rw [warnMarkers_applyReport]
  simp only [List.mem_cons, List.not_mem_nil, or_false] at six
  rcases six with rfl | rfl | rfl | rfl | rfl | rfl <;> exact ⟨_, rfl, shown _⟩

/-! ## The diagnostics of one buffer (R160, R168) -/

/-- Settles O24: the diagnostics of a buffer are its marker warning, if it has one, then what DECODE's answer
gives. -/
theorem diagnosticsOfOneBuffer : Obligations.DiagnosticsOfOneBuffer := by
  unfold Obligations.DiagnosticsOfOneBuffer
  intro buf s
  simp only [rxProcess_diagnostics, diagsOf, ← List.append_assoc]
  refine ⟨_, _, rfl, ?_, ?_, ?_, ?_, fun length_ne => ?_⟩
  · split <;> simp
  · split
    · split <;> simp
    · simp
    · simp
  · split <;> simp
  · split
    · split <;> simp
    · simp
    · simp
  · simp [markerMismatch_length length_ne, decodeFrame_length length_ne]

/-! ## Reports applied twice (R51) -/

/-- Two mirrors are equal when their entries and the two properties are. -/
theorem Mirror.ext_get {a b : Mirror} (relays : ∀ i, a.relays.get i = b.relays.get i)
    (buttons : ∀ i, a.buttons.get i = b.buttons.get i) (fwver : a.fwver = b.fwver) (jumper : a.jumper = b.jumper) :
    a = b := by
  cases a
  cases b
  cases Bank.ext_get relays
  cases Bank.ext_get buttons
  cases fwver
  cases jumper
  rfl

/-- A report applied twice is the report applied once: each handler writes constants into the entries its bytes
select. -/
theorem applyFrame_idem (c m p q : Byte) (r : Mirror) :
    applyFrame c m p q (applyFrame c m p q r) = applyFrame c m p q r := by
  unfold applyFrame
  split_ifs
  · exact Mirror.ext_get (fun i => rfl) (fun i => by simp only [h22_buttons_get]; split_ifs <;> rfl) rfl rfl
  · exact Mirror.ext_get (fun i => by simp only [h44_relays_get]; split_ifs <;> rfl) (fun i => rfl) rfl rfl
  · exact Mirror.ext_get (fun i => rfl) (fun i => by simp only [h50_buttons_get]; split_ifs <;> rfl) rfl rfl
  · exact Mirror.ext_get (fun i => by simp only [h51_relays_get]) (fun i => rfl) rfl rfl
  all_goals rfl

/-- Settles O25: a buffer is a report, applied twice, or nothing. -/
theorem reportsAreIdempotent : Obligations.ReportsAreIdempotent := by
  unfold Obligations.ReportsAreIdempotent
  intro buf s
  simp only [rxProcess_mirror]
  unfold mirrorAfter
  split
  · exact applyFrame_idem _ _ _ _ _
  · rfl
  · rfl

/-! ## Lanes (R101) -/

/-- Settles O26: the lane lemmas of the four handlers name bit i of the bytes and entity i alone, and the other
register file is untouched. -/
theorem lanesAreIndependent : Obligations.LanesAreIndependent := by
  unfold Obligations.LanesAreIndependent
  rintro c m p q m' p' q' k k' s t i codes bit_m bit_p bit_q rfl rfl same_relay same_button
  simp only [rxProcess_mirror, mirrorAfter_valid]
  rcases codes with rfl | rfl | rfl | ⟨rfl, rfl, rfl⟩
  · refine ⟨same_relay, ?_⟩
    show (h22 m p q s.mirror).buttons.get i = (h22 m' p' q' t.mirror).buttons.get i
    rw [h22_buttons_get, h22_buttons_get, bit_m, bit_p, bit_q, same_button]
  · refine ⟨same_relay, ?_⟩
    show (h50 m p q s.mirror).buttons.get i = (h50 m' p' q' t.mirror).buttons.get i
    rw [h50_buttons_get, h50_buttons_get, bit_m, bit_p, bit_q, same_button]
  · refine ⟨?_, same_button⟩
    show (h51 m p q s.mirror).relays.get i = (h51 m' p' q' t.mirror).relays.get i
    rw [h51_relays_get, h51_relays_get, bit_p, bit_q, same_relay]
  · refine ⟨?_, same_button⟩
    show (h44 m p q s.mirror).relays.get i = (h44 m' p q t.mirror).relays.get i
    rw [h44_relays_get, h44_relays_get, bit_m, same_relay]

/-! ## The echo of the unit's own frames (R209) -/

/-- The map's frames are reports only with the four command bytes that it shares with the dispatcher. -/
theorem command_notMem_responseCodes {c m p q : Byte} (h : InCommandMap c m p q) (n22 : c ≠ 0x22#8)
    (n44 : c ≠ 0x44#8) (n70 : c ≠ 0x70#8) (n71 : c ≠ 0x71#8) : c ∉ responseCodes := by
  intro mem
  have other : c = 0x50#8 ∨ c = 0x51#8 := by simpa [responseCodes, n22, n44, n70, n71] using mem
  rcases other with rfl | rfl <;> simp [InCommandMap] at h

/-- DISPATCH of a command byte that is none of the six. -/
theorem dispatch_unknown {c : Byte} (h : c ∉ responseCodes) (m p q : Byte) (s : State) :
    dispatch c m p q s =
      { s with trace := s.trace ++ [Event.diag { code := .unknownCmd, info := c.setWidth 16 }] } := by
  have same : applyFrame c m p q s.mirror = s.mirror := by
    simp only [responseCodes, List.mem_cons, List.not_mem_nil, or_false, not_or] at h
    simp [applyFrame, h]
  rw [dispatch_eq, same, if_neg h]

/-- A button-mode report with no bit set changes no mode. -/
theorem h22_zero (r : Mirror) : h22 0 0 0 r = r :=
  Mirror.ext_get (fun _ => rfl) (fun i => by simp [h22_buttons_get]) rfl rfl

/-- Settles O27: an echo is DISPATCH of the frame, by the handler of its command byte. -/
theorem echoOfSentFrames : Obligations.EchoOfSentFrames := by
  unfold Obligations.EchoOfSentFrames
  intro s
  simp only [rxProcess_frameBytes]
  refine ⟨rfl, rfl, fun i => ?_, ?_, fun c m p q sent n22 n44 n70 n71 => ?_⟩
  · have selected : (0xFF#8).getLsbD i.val = true := by revert i; decide
    show (h44 0xFF#8 0 0 s.mirror).relays.get i = _
    simp [h44_relays_get, selected]
  · show s.setMirror (h22 0 0 0 s.mirror) = s
    rw [h22_zero]
    rfl
  · exact dispatch_unknown (command_notMem_responseCodes sent n22 n44 n70 n71) m p q s

end Sys2Proof.Machine
end

section
/-! PROOF. The host operations (42_host_commands.md): each transmitting one is its plan's transaction, so a
statement about it is a statement about the plan's check, update, payload and reply. -/

namespace Sys2Proof.Machine

/-! ## A plan's transaction (R110, R140) -/

/-- Settles O38: an operation from IDLE is its plan's transaction or its plan's rejection. -/
theorem phasesOfATransaction : Obligations.PhasesOfATransaction := by
  unfold Obligations.PhasesOfATransaction
  intro i w p s hs hw hp
  rw [exec_planned hp (by simp [hs])]
  exact ⟨transact_accepted hs hw, fun e => transact_rejected hs hw⟩

/-- The frame of a payload. -/
def Payload.frame (f : Payload) : List Byte := frameBytes f.command f.mask f.p1 f.p2

/-- An operation whose check passes transacts, from every IDLE state. -/
theorem exec_transacts {i : Instr} {p : Plan} {s : State} (hs : s.phase = .idle) (hp : planOf i = some p)
    (hc : p.check = none) :
    ∃ t, exec i s = .next t ∧ Transacts (p.payload (p.updated s.mirror)).frame (p.updated s.mirror) p.reply s t := by
  obtain ⟨w, hw⟩ := encode_planned hp
  rw [exec_planned hp (by simp [hs])]
  exact transact_transacts hs hw hc

/-- An operation whose check fails rejects, from every IDLE state. -/
theorem exec_rejects {i : Instr} {p : Plan} {e : ResCode} {s : State} (hs : s.phase = .idle)
    (hp : planOf i = some p) (hc : p.check = some e) : ∃ t, exec i s = .next t ∧ Rejects e s t := by
  obtain ⟨w, hw⟩ := encode_planned hp
  rw [exec_planned hp (by simp [hs])]
  exact transact_rejects hs hw hc

/-! ## Relays (R111 to R116) -/

/-- Settles O28: three plans without check, update or reply. -/
theorem relaySwitchOperations : Obligations.RelaySwitchOperations := by
  unfold Obligations.RelaySwitchOperations
  exact fun id s hs => ⟨exec_transacts (p := planRelayOn id) hs rfl rfl,
    exec_transacts (p := planRelayOff id) hs rfl rfl, exec_transacts (p := planRelayToggle id) hs rfl rfl⟩

/-- The high byte of seconds in range. -/
theorem secondsHigh_natCast (n : Nat) : secondsHigh n = BitVec.ofNat 8 (n / 256) := by
  rw [← BitVec.toNat_inj, secondsHigh_natCast_toNat, BitVec.toNat_ofNat]

/-- The low byte of seconds. -/
theorem secondsLow_natCast (n : Nat) : secondsLow n = BitVec.ofNat 8 n := by
  rw [← BitVec.toNat_inj, secondsLow_natCast_toNat, BitVec.toNat_ofNat]

/-- Seconds in range pass the check of R114 and R116. -/
theorem rangeCheck_natCast {n : Nat} (h : n ≤ 65535) :
    (if secondsInRange n then none else some ResCode.errValRange) = none := by
  rw [rangeCheck_eq, if_neg (by omega)]

/-- Seconds out of range fail it. -/
theorem rangeCheck_outside {v : Int} (h : v < 0 ∨ v > 65535) :
    (if secondsInRange v then none else some ResCode.errValRange) = some .errValRange := by
  rw [rangeCheck_eq, if_pos h]

/-- Settles O29: the plan's payload is the two seconds bytes, and its check the range of the seconds given. -/
theorem startTimerOperation : Obligations.StartTimerOperation := by
  unfold Obligations.StartTimerOperation
  intro id s hs
  refine ⟨exec_transacts (p := planStartTimer id none) hs rfl rfl, fun n le => ?_, fun v outside => ?_⟩
  · rw [← secondsHigh_natCast, ← secondsLow_natCast]
    exact exec_transacts (p := planStartTimer id (some n)) hs rfl (rangeCheck_natCast le)
  · exact exec_rejects (p := planStartTimer id (some v)) hs rfl (rangeCheck_outside outside)

/-- Settles O30: the plan's update rewrites the delay of one relay before the transaction's frame and drain. -/
theorem setDelayOperation : Obligations.SetDelayOperation := by
  unfold Obligations.SetDelayOperation
  intro id s hs
  refine ⟨fun n le => ?_, fun v outside => ?_⟩
  · obtain ⟨t, run, transacts⟩ := exec_transacts (i := .setDelay id n) hs rfl (rangeCheck_natCast le)
    rw [← secondsHigh_natCast, ← secondsLow_natCast]
    refine ⟨t, ((planSetDelay id n).updated s.mirror).relays, fun j => ?_, run, transacts⟩
    exact Bank.get_set s.mirror.relays id j _
  · exact exec_rejects (p := planSetDelay id v) hs rfl (rangeCheck_outside outside)

/-! ## Buttons (R118, R119) -/

/-- Settles O31: the plan's update rewrites the mode of one button, and its payload is the mode masks of the mirror
so updated. -/
theorem setButtonModeOperation : Obligations.SetButtonModeOperation := by
  unfold Obligations.SetButtonModeOperation
  intro id s hs
  refine ⟨fun code v named => ?_, exec_rejects (p := planSetButtonMode id 3) hs rfl rfl, by decide⟩
  have passes : (planSetButtonMode id code).check = none := by simp [planSetButtonMode, named]
  have updated : (planSetButtonMode id code).updated s.mirror =
      s.mirror.setButton id { s.mirror.buttons.get id with mode := v } := by
    simp [planSetButtonMode, Plan.updated, named]
  obtain ⟨t, run, transacts⟩ := exec_transacts (i := .setButtonMode id code) hs rfl passes
  rw [updated] at transacts
  exact ⟨t, _, _, _, _, fun j => Bank.get_set s.mirror.buttons id j _, fun j => ⟨modeMask_getLsbD _ _ j,
    modeMask_getLsbD _ _ j, modeMask_getLsbD _ _ j⟩, run, transacts⟩

/-- Masks that share no bit are joined by their sum. -/
theorem add_eq_or_of_disjoint {a b : Byte} (h : a &&& b = 0) : a + b = a ||| b :=
  BitVec.add_eq_or_of_and_eq_zero a b h

/-- The mode masks sum to the mask of all eight buttons. -/
theorem modeMask_sum (m : Mirror) : modeMask m .momentary + modeMask m .toggle + modeMask m .timed = 0xFF#8 := by
  have third : (modeMask m .momentary ||| modeMask m .toggle) &&& modeMask m .timed = 0 := by
    rw [BitVec.and_comm, BitVec.and_or_distrib_left, modeMask_disjoint m (by decide),
      modeMask_disjoint m (by decide)]
    rfl
  rw [add_eq_or_of_disjoint (modeMask_disjoint m (by decide)), add_eq_or_of_disjoint third, modeMask_cover]

/-- A report that carries a mirror's own mode masks changes nothing of it. -/
theorem h22_modeMasks (m : Mirror) :
    h22 (modeMask m .momentary) (modeMask m .toggle) (modeMask m .timed) m = m := by
  refine Mirror.ext_get (fun _ => rfl) (fun i => ?_) rfl rfl
  rw [h22_buttons_get]
  simp only [modeMask_getLsbD]
  cases m.buttons.get i with
  | mk mode pressed action => cases mode <;> rfl

/-- Settles O32: disjoint masks that cover every button sum to 0xFF, which fixes the checksum. -/
theorem modeMasksPartitionTheButtons : Obligations.ModeMasksPartitionTheButtons := by
  unfold Obligations.ModeMasksPartitionTheButtons
  intro m
  refine ⟨modeMask_disjoint m (by decide), modeMask_disjoint m (by decide), modeMask_disjoint m (by decide),
    modeMask_cover m, ?_, h22_modeMasks m⟩
  rw [checksum_eq_neg, BitVec.add_assoc (0x04#8 + 0x21#8 + _), BitVec.add_assoc (0x04#8 + 0x21#8),
    ← BitVec.add_assoc (modeMask m .momentary), modeMask_sum]
  decide

/-! ## Queries, factory reset and reads (R120 to R129) -/

/-- Settles O33: five plans of a zeroed frame, without check, update or reply. -/
theorem queriesAndFactoryReset : Obligations.QueriesAndFactoryReset := by
  unfold Obligations.QueriesAndFactoryReset
  exact fun s hs => ⟨exec_transacts (p := planQueryRelayStatus) hs rfl rfl,
    exec_transacts (p := planQueryButtonMode) hs rfl rfl, exec_transacts (p := planQueryJumper) hs rfl rfl,
    exec_transacts (p := planQueryFirmware) hs rfl rfl, exec_transacts (p := planFactoryReset) hs rfl rfl⟩

/-- A transaction's reply matters by its values. -/
theorem Transacts.congr_reply {frame : List Byte} {r : Mirror} {data data' : Mirror → ResData} {s t : State}
    (h : Transacts frame r data s t) (same : ∀ m, data m = data' m) : Transacts frame r data' s t :=
  funext same ▸ h

/-- Settles O34: the queries' frames, and a reply that reads the mirror the drain left. -/
theorem propertyReads : Obligations.PropertyReads := by
  unfold Obligations.PropertyReads
  refine ⟨fun s hs => ⟨exec_transacts (p := planReadFirmwareVersion) hs rfl rfl, ?_⟩, rfl⟩
  obtain ⟨t, run, transacts⟩ := exec_transacts (i := .readJumper) hs rfl rfl
  refine ⟨t, run, transacts.congr_reply fun m => ?_⟩
  rcases m with ⟨_, _, _, _ | _ | _⟩ <;> rfl

/-- Settles O35: a read accepted in IDLE emits its result and does nothing else. -/
theorem pureReads : Obligations.PureReads := by
  unfold Obligations.PureReads
  exact fun id s hs => ⟨whenAccepted_idle hs _, whenAccepted_idle hs _⟩

/-! ## Relay status (R13) -/

/-- Whether two relay entries agree in what only a 0x51 report writes. -/
def Relay.SameStatus (a b : Relay) : Prop := a.status = b.status ∧ a.timerActive = b.timerActive

theorem Relay.SameStatus.trans {a b c : Relay} (h : a.SameStatus b) (h' : b.SameStatus c) : a.SameStatus c :=
  ⟨h.1.trans h'.1, h.2.trans h'.2⟩

/-- No report but 0x51 writes `status` or `timer_active`. -/
theorem applyFrame_sameStatus {c : Byte} (h : c ≠ 0x51#8) (m p q : Byte) (r : Mirror) (i : Idx) :
    ((applyFrame c m p q r).relays.get i).SameStatus (r.relays.get i) := by
  unfold applyFrame
  split_ifs
  · exact ⟨rfl, rfl⟩
  · rw [h44_relays_get]
    exact ⟨rfl, rfl⟩
  all_goals exact ⟨rfl, rfl⟩

/-- A buffer that is no valid 0x51 frame writes neither. -/
theorem mirrorAfter_sameStatus {b : List Byte} (h : ∀ m p q, decodeFrame b ≠ .ok 0x51#8 m p q) (r : Mirror)
    (i : Idx) : ((mirrorAfter b r).relays.get i).SameStatus (r.relays.get i) := by
  unfold mirrorAfter
  split
  next c m p q answer => exact applyFrame_sameStatus (by rintro rfl; exact h m p q answer) m p q r i
  next => exact ⟨rfl, rfl⟩
  next => exact ⟨rfl, rfl⟩

/-- A drain with no valid 0x51 frame writes neither. -/
theorem drainMirror_sameStatus {bufs : List (List Byte)}
    (h : ∀ b ∈ bufs, ∀ m p q, decodeFrame b ≠ .ok 0x51#8 m p q) (r : Mirror) (i : Idx) :
    ((drainMirror bufs r).relays.get i).SameStatus (r.relays.get i) := by
  induction bufs generalizing r with
  | nil => exact ⟨rfl, rfl⟩
  | cons b bs ih =>
    have first := mirrorAfter_sameStatus (h b List.mem_cons_self) r i
    have rest := ih (fun b' mem => h b' (List.mem_cons_of_mem b mem)) (mirrorAfter b r)
    exact rest.trans first

/-- No local update writes either. -/
theorem update_sameStatus {i : Instr} {p : Plan} {u : Mirror → Mirror} (hp : planOf i = some p)
    (hu : p.update = some u) (r : Mirror) (j : Idx) : ((u r).relays.get j).SameStatus (r.relays.get j) := by
  rcases update_cases hp hu with ⟨id, secs, -, rfl⟩ | ⟨id, code, -, rfl⟩
  · simp only [Mirror.setRelay, Bank.get_set]
    split
    next same => rw [same]; exact ⟨rfl, rfl⟩
    next => exact ⟨rfl, rfl⟩
  · cases modeOfCode code <;> exact ⟨rfl, rfl⟩

/-- Settles O37: the mirror after a command is a drain's fold of the mirror or of its local update. -/
theorem relayStatusOnlyByReport : Obligations.RelayStatusOnlyByReport := by
  unfold Obligations.RelayStatusOnlyByReport
  intro w s t i hs run no_report
  have drained : ∀ bufs : List (List Byte), (∀ b ∈ bufs, b ∈ s.waiting) → ∀ r : Mirror,
      ((drainMirror bufs r).relays.get i).SameStatus (r.relays.get i) :=
    fun bufs read r => drainMirror_sameStatus (fun b mem => no_report b (read b mem)) r i
  obtain ⟨t', run', does⟩ := command_idle w hs
  rw [run] at run'
  cases run'
  cases does with
  | operation _ hp fin =>
    obtain ⟨bufs, read, plain | ⟨u, hu, updated⟩⟩ := fin.mirror
    · rw [plain]
      exact drained bufs read s.mirror
    · rw [updated]
      exact (drained bufs read (u s.mirror)).trans (update_sameStatus hp hu s.mirror i)
  | read => exact ⟨rfl, rfl⟩
  | close => exact ⟨rfl, rfl⟩
  | closeAgain => exact ⟨rfl, rfl⟩

end Sys2Proof.Machine
end

section
/-! PROOF. The sequencer (43_sync_sequencer.md): where a step takes its instruction from, acceptance, CLOSE, INIT,
and the operations taken up in a busy phase. -/

namespace Sys2Proof.Machine

/-! ## A step by its source (logs 7, 18) -/

/-- A step that has an instruction before it runs it. -/
theorem step_of_run {s t : State} {i : Instr} (h : fetch s = .run i t) : step s = exec i t := by
  rw [step, h]

/-- A step that has a move of the sequencer before it makes it. -/
theorem step_of_move {s : State} {r : Result} (h : fetch s = .move r) : step s = r := by
  rw [step, h]

/-- The codec's ports come first. -/
theorem step_codec {s : State} {q : CodecIn} {later : List CodecIn} (hr : s.rst = false)
    (hq : s.codec = q :: later) : step s = exec (decodeCodec q) { s with codec := later } :=
  step_of_run (by simp [fetch, hr, hq])

/-- With nothing at the codec's ports the phase decides. -/
theorem fetch_of_phase {s : State} (hr : s.rst = false) (hq : s.codec = []) : fetch s = fetchByPhase s := by
  simp [fetch, hr, hq]

/-- The phases that take a command. -/
theorem fetchByPhase_command {s : State} (hs : s.phase = .idle ∨ s.phase = .closed) :
    fetchByPhase s = fetchCommand s := by
  rcases hs with hs | hs <;> rw [fetchByPhase, hs]

theorem step_command {s : State} {w : CmdWord} {later : List CmdWord} (hr : s.rst = false) (hq : s.codec = [])
    (hs : s.phase = .idle ∨ s.phase = .closed) (hc : s.cmds = w :: later) :
    step s = exec (decodeCmd w) { s with cmds := later } :=
  step_of_run (by rw [fetch_of_phase hr hq, fetchByPhase_command hs, fetchCommand, hc])

theorem step_wait {s : State} (hr : s.rst = false) (hq : s.codec = []) (hs : s.phase = .idle ∨ s.phase = .closed)
    (hc : s.cmds = []) : step s = .next s :=
  step_of_move (by rw [fetch_of_phase hr hq, fetchByPhase_command hs, fetchCommand, hc])

theorem step_init {s : State} (hr : s.rst = false) (hq : s.codec = []) (hs : s.phase = .init) :
    step s = exec (initInstr s.initAt) s :=
  step_of_run (by rw [fetch_of_phase hr hq, fetchByPhase, hs])

/-- In the phases of an operation before its drain a step goes on with the operation. -/
theorem step_resume {s : State} (hr : s.rst = false) (hq : s.codec = []) (mid : midOperation s.phase = true)
    (hs : s.phase ≠ .drain) : step s = resume s := by
  refine step_of_move ?_
  rw [fetch_of_phase hr hq, fetchByPhase]
  cases phase : s.phase <;> simp_all [midOperation]

/-- Settles O1: a step by each of its sources. -/
theorem stepRunsThePresentedInstruction : Obligations.StepRunsThePresentedInstruction := by
  unfold Obligations.StepRunsThePresentedInstruction
  refine ⟨fun s q later => step_codec, fun s w later => step_command, fun s i hr hq hs waiting decoded => ?_,
    fun s => step_init, fun s => step_wait⟩
  rw [step_buffer hr hq hs waiting, exec_decodeRx decoded]

/-! ## Acceptance (R141, R145, R149, R150) -/

/-- Busy outside INIT is an operation in progress. -/
theorem midOperation_of_busy {s : State} (h : busy s = true) (hi : s.phase ≠ .init) :
    midOperation s.phase = true := by
  cases hs : s.phase <;> simp_all [busy, midOperation]

/-- In the phases that take a command the unit is not busy. -/
theorem not_busy {s : State} (hs : s.phase = .idle ∨ s.phase = .closed) : busy s = false := by
  rcases hs with hs | hs <;> simp [busy, hs]

/-- A frame of INIT takes no command. -/
theorem cmds_initTaken (s : State) : (initTaken s).cmds = s.cmds := by
  cases slot : s.initAt <;> simp [initTaken, slot, afterInitFrame]

/-- Settles O39: while an operation is in progress nothing is accepted, and of a step's cases only one takes a
command, which is not busy. -/
theorem commandsWaitWhileBusy : Obligations.CommandsWaitWhileBusy := by
  unfold Obligations.CommandsWaitWhileBusy
  refine ⟨fun w s hb hi => command_waits w (midOperation_of_busy hb hi), fun s t hb h => ?_⟩
  cases step_does h with
  | reset => rfl
  | codec => rfl
  | command _ _ hs => rw [not_busy hs] at hb; cases hb
  | wait => rfl
  | buffer => rfl
  | resume _ _ _ _ fin => exact fin.cmds
  | init => exact cmds_initTaken s
  | initFails => rfl

/-- Settles O40: CLOSE from IDLE and from CLOSED, each with its records. -/
theorem closeOperation : Obligations.CloseOperation := by
  unfold Obligations.CloseOperation
  constructor <;> intro s hs <;>
    simp [exec, execClose, hs, whenAccepted, closeUnit, transportClose, State.emit, State.setPhase]

/-- Settles O41: a command is refused in CLOSED, and no step but a reset leaves it. -/
theorem refusedAfterClose : Obligations.RefusedAfterClose := by
  unfold Obligations.RefusedAfterClose
  constructor
  · intro w s hs not_close
    rcases command_closed w hs with ⟨close, -⟩ | ⟨-, refused⟩
    · exact absurd close not_close
    · exact refused
  · intro s t hs hr h
    rcases step_closesOnce hr h with ⟨-, stays⟩ | ⟨-, closed, -⟩
    · exact stays hs
    · exact closed

/-- Settles O54: of the commands only one with a plan touches the mirror, the receive side or the TX port. -/
theorem mirrorIsStableWhileIdle : Obligations.MirrorIsStableWhileIdle := by
  unfold Obligations.MirrorIsStableWhileIdle
  intro s t hs hr h presented
  cases step_does h with
  | reset high => rw [hr] at high; cases high
  | codec => exact ⟨rfl, ⟨rfl, rfl, rfl⟩, rfl, by simp [sentFrames]⟩
  | @command w later _ _ hq _ hc _ does =>
    have unplanned : planOf (decodeCmd w) = none := by
      rcases presented with codec | none_presented | ⟨w', later', hc', hp⟩
      · exact absurd hq codec
      · rw [hc] at none_presented; cases none_presented
      · rw [hc] at hc'; cases hc'; exact hp
    cases does with
    | operation _ planned => rw [unplanned] at planned; cases planned
    | read => exact ⟨rfl, ⟨rfl, rfl, rfl⟩, rfl, by simp [sentFrames]⟩
    | close => exact ⟨rfl, ⟨rfl, rfl, rfl⟩, rfl, by simp [sentFrames, List.filterMap_cons]⟩
    | closeAgain => exact ⟨rfl, ⟨rfl, rfl, rfl⟩, rfl, by simp [sentFrames]⟩
  | wait => exact ⟨rfl, ⟨rfl, rfl, rfl⟩, rfl, rfl⟩
  | buffer _ _ drain => rw [hs] at drain; cases drain
  | resume _ _ mid => exact absurd hs (phase_ne_of_midOperation mid rfl)
  | init _ _ init => rw [hs] at init; cases init
  | initFails _ _ init => rw [hs] at init; cases init

/-- With an operation in the command register a busy unit goes on. -/
theorem resume_next {s : State} {p : Plan} (hp : currentPlan s = some p) : ∃ t, resume s = .next t := by
  unfold resume
  rw [hp]
  cases s.phase <;> exact ⟨_, rfl⟩

/-- Settles O55: by the phases; only a command in CLOSED is refused, and an operation in progress is in the
command register. -/
theorem stepStopsOnlyAfterClose : Obligations.StepStopsOnlyAfterClose := by
  unfold Obligations.StepStopsOnlyAfterClose
  rintro s ⟨-, -, in_progress⟩
  have mid_next : midOperation s.phase = true → ∃ t, resume s = .next t := fun mid =>
    have ⟨_, hp⟩ := Option.isSome_iff_exists.mp (in_progress mid)
    resume_next hp
  cases hr : s.rst with
  | true => exact .inl ⟨_, step_of_rst hr⟩
  | false =>
  cases hq : s.codec with
  | cons q later =>
    obtain ⟨o, emits⟩ := codec_step q { s with codec := later }
    exact .inl ⟨_, (step_codec hr hq).trans emits⟩
  | nil =>
  by_cases ready : s.phase = .idle ∨ s.phase = .closed
  · cases hc : s.cmds with
    | nil => exact .inl ⟨s, step_wait hr hq ready hc⟩
    | cons w later =>
      rw [step_command hr hq ready hc]
      rcases ready with idle | closed
      · obtain ⟨t, run, -⟩ := command_idle w (s := { s with cmds := later }) idle
        exact .inl ⟨t, run⟩
      · rcases command_closed w (s := { s with cmds := later }) closed with ⟨-, run⟩ | ⟨not_close, refused⟩
        · exact .inl ⟨_, run⟩
        · exact .inr ⟨refused, closed, w, later, rfl, not_close⟩
  · left
    by_cases hi : s.phase = .init
    · rw [step_init hr hq hi, init_step hi]
      cases s.nextAnswer <;> exact ⟨_, rfl⟩
    · have mid : midOperation s.phase = true := by cases hs : s.phase <;> simp_all [midOperation]
      by_cases hd : s.phase = .drain
      · by_cases empty : s.rxQueue = []
        · rw [step_drained hr hq hd empty]
          exact mid_next mid
        · exact ⟨_, step_buffer hr hq hd empty⟩
      · rw [step_resume hr hq mid hd]
        exact mid_next mid

/-! ## INIT (R147, R148) -/

/-- Settles O44: the row's only meaning is at its place in INIT. -/
theorem timerDelayQueryOutsideInit : Obligations.TimerDelayQueryOutsideInit := by
  unfold Obligations.TimerDelayQueryOutsideInit
  intro s outside
  rw [exec, execInitQueryTimerDelay, if_neg outside]

/-- A step of INIT whose frame is taken. -/
theorem step_init_taken {s : State} (hr : s.rst = false) (hq : s.codec = []) (hs : s.phase = .init)
    (ha : s.nextAnswer = .ok) : step s = .next (initTaken s) := by
  rw [step_init hr hq hs, init_step hs, ha]

/-- A step of INIT whose frame is refused. -/
theorem step_init_refused {s : State} (hr : s.rst = false) (hq : s.codec = []) (hs : s.phase = .init)
    (ha : s.nextAnswer = .error) : step s = .next (afterInitFailure (initFrame s.initAt) s) := by
  rw [step_init hr hq hs, init_step hs, ha]

/-- Settles O43: the frame of each place, refused. -/
theorem startUpFailure : Obligations.StartUpFailure := by
  unfold Obligations.StartUpFailure
  intro s hr hq hs ha
  rw [step_init_refused hr hq hs ha]
  cases s.initAt <;> rfl

theorem initTaken_relayStatus {s : State} (h : s.initAt = .relayStatus) :
    initTaken s = afterInitFrame (initFrame .relayStatus) .buttonMode s := by
  rw [initTaken, h]

theorem initTaken_buttonMode {s : State} (h : s.initAt = .buttonMode) :
    initTaken s = afterInitFrame (initFrame .buttonMode) .timerDelay s := by
  rw [initTaken, h]

theorem initTaken_timerDelay {s : State} (h : s.initAt = .timerDelay) :
    initTaken s = { afterInitFrame (initFrame .timerDelay) .relayStatus s with
      phase := .idle
      trace := (afterInitFrame (initFrame .timerDelay) .relayStatus s).trace ++ [Event.phase .idle] } := by
  rw [initTaken, h]

/-- The row at its place in INIT, where its frame is taken. -/
theorem exec_initInstr_taken {s : State} {slot : InitSlot} (hs : s.phase = .init) (ha : s.nextAnswer = .ok)
    (hslot : s.initAt = slot) : exec (initInstr slot) s = .next (initTaken s) := by
  rw [← hslot, init_step hs, ha]

/-- The mirror after one drain and another is the mirror after both. -/
theorem drainMirror_append (bufs bufs' : List (List Byte)) (r : Mirror) :
    drainMirror (bufs ++ bufs') r = drainMirror bufs' (drainMirror bufs r) :=
  List.foldl_append

/-- Settles O42: each place of INIT by itself, then a run of the three. -/
theorem startUpSequence : Obligations.StartUpSequence := by
  unfold Obligations.StartUpSequence
  constructor
  · intro s hs ha
    refine ⟨fun slot => ?_, fun slot => ?_, fun slot => ?_⟩
    · exact (exec_initInstr_taken hs ha slot).trans (congrArg Host.Outcome.next (initTaken_relayStatus slot))
    · exact (exec_initInstr_taken hs ha slot).trans (congrArg Host.Outcome.next (initTaken_buttonMode slot))
    · exact (exec_initInstr_taken hs ha slot).trans (congrArg Host.Outcome.next (initTaken_timerDelay slot))
  · rintro s a1 a2 a3 later d1 d2 d3 answers hr hq hs slot arrivals sent rfl rfl rfl
    have first := step_init_taken hr hq hs (by simp [State.nextAnswer, sent])
    rw [initTaken_relayStatus slot] at first
    have second := step_init_taken (s := afterInitFrame (initFrame .relayStatus) .buttonMode s) hr hq hs
      (by simp [State.nextAnswer, afterInitFrame, sent])
    rw [initTaken_buttonMode rfl] at second
    have third := step_init_taken
      (s := afterInitFrame (initFrame .buttonMode) .timerDelay
        (afterInitFrame (initFrame .relayStatus) .buttonMode s)) hr hq hs
      (by simp [State.nextAnswer, afterInitFrame, sent])
    rw [initTaken_timerDelay rfl] at third
    rw [core_run_next first, core_run_next second, core_run_next third]
    refine congrArg Host.Outcome.next ?_
    apply State.ext_fields <;>
      simp [afterInitFrame, State.waiting, State.nextArrival, arrivals, sent, slot, drainMirror_append, initFrame,
        frameBytes]

end Sys2Proof.Machine
end

section
/-! PROOF. Operations taken up in a busy phase, and the operation that reads rejected buffers
(43_sync_sequencer.md section 1, 60_exceptions.md section 2; logs 1, 4 and 18). -/

namespace Sys2Proof.Machine

/-! ## Phases entered once -/

/-- A phase the unit is in is not entered again. -/
theorem setPhase_of_eq {s : State} {q : Phase} (h : s.phase = q) : s.setPhase q = s := by
  rw [State.setPhase, if_pos h]

/-- A phase the unit is not in is entered and shown. -/
theorem setPhase_of_ne {s : State} {q : Phase} (h : s.phase ≠ q) :
    s.setPhase q = { s with phase := q, trace := s.trace ++ [Event.phase q] } := by
  rw [State.setPhase, if_neg h]

/-- From VALIDATE an operation goes on as from the phase before it. -/
theorem fromValidate_setPhase (p : Plan) (s : State) : p.fromValidate (s.setPhase .validate) = p.fromValidate s := by
  rw [Plan.fromValidate, Plan.fromValidate, setPhase_of_eq (State.setPhase_phase .validate s)]

/-- From UPDATE an operation goes on as from the phase before it. -/
theorem fromUpdate_setPhase {p : Plan} (h : p.update.isSome = true) (s : State) :
    p.fromUpdate (s.setPhase .update) = p.fromUpdate s := by
  obtain ⟨u, hu⟩ := Option.isSome_iff_exists.mp h
  simp only [Plan.fromUpdate, hu, setPhase_of_eq (State.setPhase_phase .update s)]

/-- VALIDATE to the end where the check passes. -/
theorem fromValidate_of_passes {p : Plan} (h : p.check = none) (s : State) :
    p.fromValidate s = p.fromUpdate (s.setPhase .validate) := by
  rw [Plan.fromValidate, h]

/-- An operation accepted in IDLE goes through its plan with its word in the command register. -/
theorem exec_accepted {i : Instr} {w : CmdWord} {p : Plan} {s : State} (hs : s.phase = .idle)
    (hw : encode i = .cmd w) (hp : planOf i = some p) :
    exec i s = .next (p.fromValidate { s with cmdReg := w }) := by
  rw [exec_planned hp (by simp [hs]), transact, whenAccepted_idle hs, State.accept_eq hw]

/-! ## What a step resumes -/

/-- The plan of the operation whose word stands in the command register. -/
theorem currentPlan_of_encode {s : State} {i : Instr} {w : CmdWord} (hw : encode i = .cmd w) (wf : i.WellFormed)
    (hreg : s.cmdReg = w) : currentPlan s = planOf i := by
  rw [currentPlan, hreg, decodeCmd_of_encode hw wf]

/-! A step of an operation in progress, by the phase it stands in. -/

section
variable {s : State} {p : Plan} (hr : s.rst = false) (hq : s.codec = []) (hp : currentPlan s = some p)
include hr hq hp

theorem step_validate (hs : s.phase = .validate) : step s = .next (p.fromValidate s) :=
  (step_resume hr hq (by rw [hs]; rfl) (by simp [hs])).trans (by simp only [resume, hp, hs])

theorem step_update (hs : s.phase = .update) : step s = .next (p.fromUpdate s) :=
  (step_resume hr hq (by rw [hs]; rfl) (by simp [hs])).trans (by simp only [resume, hp, hs])

theorem step_tx (hs : s.phase = .tx) : step s = .next (p.fromTx s) :=
  (step_resume hr hq (by rw [hs]; rfl) (by simp [hs])).trans (by simp only [resume, hp, hs])

theorem step_settle (hs : s.phase = .settle) : step s = .next (p.afterWrite s) :=
  (step_resume hr hq (by rw [hs]; rfl) (by simp [hs])).trans (by simp only [resume, hp, hs])

theorem step_drain_end (hs : s.phase = .drain) (empty : s.rxQueue = []) :
    step s = .next (s.endWith .ok (p.reply s.mirror)) := by
  rw [step_drained hr hq hs empty]
  simp only [resume, hp, hs]

end

/-- Settles O2: the step enters VALIDATE no second time, and the one-step form enters it from IDLE. -/
theorem operationTakenUpAfterAcceptance : Obligations.OperationTakenUpAfterAcceptance := by
  unfold Obligations.OperationTakenUpAfterAcceptance
  intro s i w hr hq hs hw wf planned
  obtain ⟨p, hp⟩ := Option.isSome_iff_exists.mp planned
  have entered : State.setPhase .validate { s with cmdReg := w } =
      { s with cmdReg := w, phase := .validate, trace := s.trace ++ [Event.phase .validate] } :=
    setPhase_of_ne (by simp [hs])
  rw [exec_accepted hs hw hp, ← fromValidate_setPhase, entered]
  exact step_validate hr hq ((currentPlan_of_encode hw wf rfl).trans hp) rfl

/-! ## The drain, one buffer a step (R144) -/

/-- With no byte waiting the drain in progress is over. -/
theorem drain_of_empty {s : State} (hs : s.phase = .drain) (empty : s.rxQueue = []) : drain s = s := by
  rw [drain_eq]
  apply State.ext_fields <;> simp [State.queued, empty, hs, drainMirror, drainDiags]

/-- The drain in progress after one of its buffers. -/
theorem drain_read {s : State} (hs : s.phase = .drain) (waiting : s.rxQueue ≠ []) :
    drain (rxProcess s.nextRead s.afterRead) = drain s := by
  have rest : (rxProcess s.nextRead s.afterRead).queued = s.afterRead.queued := by
    rw [rxProcess_eq]
    rfl
  rw [drain_eq, drain_eq, rest, State.queued_read waiting, rxProcess_eq]
  apply State.ext_fields <;> simp [hs, State.afterRead, drainMirror, drainDiags, List.drop_tail]

/-- Settles O3: by induction on the buffers still to read. -/
theorem stepwiseDrainIsTheDrain : Obligations.StepwiseDrainIsTheDrain := by
  unfold Obligations.StepwiseDrainIsTheDrain
  intro s p hr hq hs hp
  generalize bufs_eq : s.queued = bufs
  induction bufs generalizing s with
  | nil =>
    have empty : s.rxQueue = [] := by
      by_contra waiting
      rw [State.queued_read waiting] at bufs_eq
      cases bufs_eq
    rw [core_run_next (step_drain_end hr hq hp hs empty), drain_of_empty hs empty]
    rfl
  | cons b bs ih =>
    have waiting : s.rxQueue ≠ [] := by
      intro empty
      simp [State.queued, empty] at bufs_eq
    have rest : (rxProcess s.nextRead s.afterRead).queued = bs := by
      rw [State.queued_read waiting] at bufs_eq
      rw [rxProcess_eq]
      exact (List.cons.inj bufs_eq).2
    rw [List.length_cons, core_run_next (step_buffer hr hq hs waiting), ← drain_read hs waiting]
    refine ih _ ?_ ?_ ?_ ?_ rest <;> rw [rxProcess_eq]
    exacts [hr, hq, hs, hp]

/-! ## Operations taken up in the later phases -/

/-- The state in which an operation that has passed its check stands at the head of UPDATE, its word in the command
register. -/
def Plan.atUpdate (p : Plan) (w : CmdWord) (s : State) : State :=
  { s with cmdReg := w, phase := .update, trace := s.trace ++ [Event.phase .validate] ++ p.early }

/-- The same operation at the head of TX, its local update made. -/
def Plan.atTx (p : Plan) (w : CmdWord) (s : State) : State :=
  { s with
    cmdReg := w, mirror := p.updated s.mirror, phase := .tx
    trace := s.trace ++ [Event.phase .validate] ++ p.early ++ [Event.phase .tx] }

/-- The same operation after a write that the transport took, at the head of SETTLE. -/
def Plan.atSettle (p : Plan) (w : CmdWord) (s : State) : State :=
  { s with
    cmdReg := w, mirror := p.updated s.mirror, phase := .settle, txAnswers := s.txAnswers.tail
    trace := s.trace ++ [Event.phase .validate] ++ p.early ++
      [Event.phase .tx, Event.tx (p.payload (p.updated s.mirror)).frame .ok, Event.phase .settle] }

/-- The same operation at the head of DRAIN. -/
def Plan.atDrain (p : Plan) (w : CmdWord) (s : State) : State :=
  { s with
    cmdReg := w, mirror := p.updated s.mirror, phase := .drain, txAnswers := s.txAnswers.tail
    rxQueue := s.rxQueue ++ s.nextArrival, arrivals := s.arrivals.tail
    trace := s.trace ++ [Event.phase .validate] ++ p.early ++
      [Event.phase .tx, Event.tx (p.payload (p.updated s.mirror)).frame .ok, Event.phase .settle,
        Event.phase .drain] }

/-- The transaction of a plan from IDLE. -/
def Plan.transaction (p : Plan) (w : CmdWord) (s : State) : State :=
  afterTransaction w (p.payload (p.updated s.mirror)).frame p.early (p.updated s.mirror) p.reply s

theorem setPhase_atUpdate {p : Plan} {w : CmdWord} {s : State} (hs : s.phase = .idle) (h : p.update.isSome = true) :
    (State.setPhase .validate { s with cmdReg := w }).setPhase .update = p.atUpdate w s := by
  apply State.ext_fields <;> simp [Plan.atUpdate, Plan.early, hs, h]

theorem fromTx_atTx (p : Plan) (w : CmdWord) (s : State) : p.fromTx (p.atTx w s) = p.transaction w s := by
  rw [fromTx_eq p _ (by simp [Plan.atTx]), Plan.transaction, afterTransaction,
    show (p.atTx w s).nextAnswer = s.nextAnswer from rfl]
  cases s.nextAnswer <;> apply State.ext_fields <;>
    simp [Plan.atTx, State.waiting, State.nextArrival, Payload.frame]

theorem afterWrite_atSettle (p : Plan) (w : CmdWord) {s : State} (ha : s.nextAnswer = .ok) :
    p.afterWrite (p.atSettle w s) = p.transaction w s := by
  rw [afterWrite_eq p _ rfl, Plan.transaction, afterTransaction, ha]
  apply State.ext_fields <;> simp [Plan.atSettle, State.waiting, State.nextArrival]

theorem drain_atDrain (p : Plan) (w : CmdWord) {s : State} (ha : s.nextAnswer = .ok) :
    (drain (p.atDrain w s)).endWith .ok (p.reply (drain (p.atDrain w s)).mirror) = p.transaction w s := by
  rw [drain_eq, show (p.atDrain w s).queued = s.waiting from rfl, Plan.transaction, afterTransaction, ha]
  apply State.ext_fields <;> simp [Plan.atDrain]

/-- Settles O56: each state is the one in which the one-step form enters the phase, so what is left of the operation
is what is left of the one-step form; from DRAIN on it is the stepwise drain. -/
theorem operationTakenUpInLaterPhases : Obligations.OperationTakenUpInLaterPhases := by
  unfold Obligations.OperationTakenUpInLaterPhases
  rintro s i w p r shown frame hr hq hs hw wf hp hc rfl rfl rfl
  have current : ∀ {t : State}, t.cmdReg = w → currentPlan t = some p := fun hreg =>
    (currentPlan_of_encode hw wf hreg).trans hp
  have whole : exec i s = .next (p.transaction w s) :=
    (exec_planned hp (by simp [hs])).trans (transact_accepted hs hw hc)
  refine ⟨fun updates => ?_, ?_, fun ha => ⟨?_, ?_⟩⟩
  · rw [exec_accepted hs hw hp, fromValidate_of_passes hc, ← fromUpdate_setPhase updates, setPhase_atUpdate hs updates]
    exact step_update (s := p.atUpdate w s) hr hq (current rfl) rfl
  · rw [whole, ← fromTx_atTx]
    exact step_tx (s := p.atTx w s) hr hq (current rfl) rfl
  · rw [whole, ← afterWrite_atSettle p w ha]
    exact step_settle (s := p.atSettle w s) hr hq (current rfl) rfl
  · rw [whole, ← drain_atDrain p w ha]
    exact stepwiseDrainIsTheDrain (p.atDrain w s) p hr hq rfl (current rfl)

/-! ## Rejected buffers (R163) -/

/-- A drain makes of the mirror what its accepted buffers make of it. -/
theorem drainMirror_filter_decOk (bufs : List (List Byte)) (r : Mirror) :
    drainMirror (bufs.filter fun b => decOk b) r = drainMirror bufs r := by
  induction bufs generalizing r with
  | nil => rfl
  | cons b bs ih =>
    have rest : drainMirror (b :: bs) r = drainMirror bs (mirrorAfter b r) := rfl
    cases accepted : decOk b with
    | true => rw [List.filter_cons_of_pos accepted, rest, ← ih]; rfl
    | false => rw [List.filter_cons_of_neg (by simp [accepted]), ih, rest, mirrorAfter_rejected accepted]

/-- Two operations ended alike: the mirror, the sequencer, the frames sent and the results. -/
def EndAlike (t t' : State) : Prop :=
  t'.mirror = t.mirror ∧ t'.phase = t.phase ∧ t'.closed = t.closed ∧ sentFrames t' = sentFrames t ∧
    results t' = results t

/-- The state with another receive side. -/
def State.withReceive (s : State) (queue : List Byte) (arrivals : List (List Byte)) (answers : List RxAnswer) :
    State :=
  { s with rxQueue := queue, arrivals := arrivals, rxAnswers := answers }

section
variable {s t t' : State} {queue : List Byte} {arrivals : List (List Byte)} {answers : List RxAnswer}

/-- Transactions end alike where their drains make the same of the mirror. -/
theorem Transacts.endAlike {frame : List Byte} {r : Mirror} {data : Mirror → ResData} (h : Transacts frame r data s t)
    (h' : Transacts frame r data (s.withReceive queue arrivals answers) t')
    (drains : drainMirror (s.withReceive queue arrivals answers).waiting r = drainMirror s.waiting r) :
    EndAlike t t' := by
  obtain ⟨⟨closed, -⟩, phase, -, sent, taken, refused⟩ := h
  obtain ⟨⟨closed', -⟩, phase', -, sent', taken', refused'⟩ := h'
  have mirror_and_results : t'.mirror = t.mirror ∧ results t' = results t := by
    cases answer : s.nextAnswer with
    | ok =>
      obtain ⟨mirror, -, -, result⟩ := taken answer
      obtain ⟨mirror', -, -, result'⟩ := taken' answer
      have same_mirror : t'.mirror = t.mirror := mirror'.trans (drains.trans mirror.symm)
      exact ⟨same_mirror, by rw [result', result, same_mirror]; rfl⟩
    | error =>
      obtain ⟨mirror, -, -, result⟩ := refused answer
      obtain ⟨mirror', -, -, result'⟩ := refused' answer
      exact ⟨mirror'.trans mirror.symm, result'.trans result.symm⟩
  obtain ⟨same_mirror, same_results⟩ := mirror_and_results
  exact ⟨same_mirror, phase'.trans phase.symm, closed'.trans closed.symm, sent'.trans sent.symm, same_results⟩

/-- Rejections end alike whatever the receive side. -/
theorem Rejects.endAlike {code : ResCode} (h : Rejects code s t)
    (h' : Rejects code (s.withReceive queue arrivals answers) t') : EndAlike t t' := by
  obtain ⟨⟨closed, -⟩, phase, -, -, mirror, sent, -, result⟩ := h
  obtain ⟨⟨closed', -⟩, phase', -, -, mirror', sent', -, result'⟩ := h'
  exact ⟨mirror'.trans mirror.symm, phase'.trans phase.symm, closed'.trans closed.symm, sent'.trans sent.symm,
    result'.trans result.symm⟩

end

/-- Settles O23: a transaction reads its drain through the mirror alone, which the accepted buffers decide; a
rejection, a read and CLOSE do not drain. -/
theorem frameErrorsDoNotTouchTheOperation : Obligations.FrameErrorsDoNotTouchTheOperation := by
  unfold Obligations.FrameErrorsDoNotTouchTheOperation
  intro w s t queue arrivals answers hs run same_reads
  have hs' : (s.withReceive queue arrivals answers).phase = .idle := hs
  cases hp : planOf (decodeCmd w) with
  | some p =>
    cases hc : p.check with
    | none =>
      obtain ⟨u, run_u, ends⟩ := exec_transacts hs hp hc
      obtain ⟨u', run_u', ends'⟩ := exec_transacts hs' hp hc
      obtain rfl : u = t := Host.Outcome.next.inj (run_u.symm.trans run)
      refine ⟨u', run_u', ends.endAlike ends' ?_⟩
      rw [State.withReceive, same_reads, drainMirror_filter_decOk]
    | some e =>
      obtain ⟨u, run_u, ends⟩ := exec_rejects hs hp hc
      obtain ⟨u', run_u', ends'⟩ := exec_rejects hs' hp hc
      obtain rfl : u = t := Host.Outcome.next.inj (run_u.symm.trans run)
      exact ⟨u', run_u', ends.endAlike ends'⟩
  | none =>
    rcases command_unplanned hp with ⟨id, h⟩ | ⟨id, h⟩ | h <;> rw [h] at run ⊢
    · obtain rfl := Host.Outcome.next.inj ((whenAccepted_idle hs _).symm.trans run)
      exact ⟨_, whenAccepted_idle hs' _, rfl, rfl, rfl, rfl, rfl⟩
    · obtain rfl := Host.Outcome.next.inj ((whenAccepted_idle hs _).symm.trans run)
      exact ⟨_, whenAccepted_idle hs' _, rfl, rfl, rfl, rfl, rfl⟩
    · obtain ⟨from_idle, -⟩ : Obligations.CloseOperation := closeOperation
      obtain rfl := Host.Outcome.next.inj ((from_idle s hs).symm.trans run)
      exact ⟨_, from_idle _ hs', rfl, rfl, rfl, rfl, rfl⟩

end Sys2Proof.Machine
end

section
/-! PROOF. The receive queue (20_memory.md, 43_sync_sequencer.md section 1): the transport's two receive calls, a drain
as a reading of the queue, and every list of buffers as a drain. -/

namespace Sys2Proof.Machine

/-! ## The receive calls (R42, R43) -/

/-- Where no read times out the next one returns all it takes. -/
theorem readTakes_le_gives {s : State} (h : NoTimeout s.rxAnswers) (n : Nat) :
    s.readTakes n ≤ (s.nextRxAnswer n).gives := by
  unfold State.readTakes State.nextRxAnswer
  cases answers : s.rxAnswers with
  | nil => exact Nat.min_le_left n _
  | cons a as =>
    rw [answers] at h
    exact (Nat.min_le_right n a.takes).trans (h a List.mem_cons_self)

/-- Settles O57: a read cuts the queue in what it returns, what it loses and what it leaves. -/
theorem receiveCallsOfTheTransport : Obligations.ReceiveCallsOfTheTransport := by
  unfold Obligations.ReceiveCallsOfTheTransport
  intro n s
  refine ⟨rfl, (s.rxQueue.take (s.readTakes n)).take (s.nextRxAnswer n).gives,
    (s.rxQueue.take (s.readTakes n)).drop (s.nextRxAnswer n).gives, s.rxQueue.drop (s.readTakes n), rfl, ?_, ?_, ?_, ?_⟩
  · rw [List.take_append_drop, List.take_append_drop]
  · rw [← List.length_append, List.take_append_drop]
    exact (List.length_take_le _ _).trans (Nat.min_le_left n _)
  · intro no_timeout
    exact List.drop_eq_nil_of_le ((List.length_take_le _ _).trans (readTakes_le_gives no_timeout n))
  · intro no_answer
    simp [State.readTakes, State.nextRxAnswer, no_answer, RxAnswer.full]

/-! ## A drain reads the queue (R48, R50, R54) -/

/-- Only an empty queue gives no buffer. -/
theorem cuts_eq_nil_iff {q : List Byte} {answers : List RxAnswer} : cuts q answers = [] ↔ q = [] := by
  constructor
  · intro none_read
    by_contra waiting
    rw [cuts_cons waiting] at none_read
    cases none_read
  · rintro rfl
    exact cuts_nil answers

/-- Where no read times out the last buffer is not empty: it holds the queue's last byte. -/
theorem cuts_getLast?_ne_nil {q : List Byte} {answers : List RxAnswer} (h : NoTimeout answers) {b : List Byte}
    (last : (cuts q answers).getLast? = some b) : b ≠ [] := by
  induction q, answers using reads_induction with
  | hnil => simp at last
  | hread q answers waiting ih =>
    rw [cuts_cons waiting] at last
    by_cases rest : q.drop (takenBy answers) = []
    · rw [cuts_eq_nil_iff.mpr rest, List.getLast?_singleton, Option.some_inj] at last
      rw [← last, readBuffer_noTimeout h, List.take_of_length_le (List.drop_eq_nil_iff.mp rest)]
      exact waiting
    · rw [List.getLast?_cons_of_ne_nil (mt cuts_eq_nil_iff.mp rest)] at last
      exact ih (fun a mem => h a (List.mem_of_mem_tail mem)) last

/-- A full read returns seven bytes or all there are. -/
theorem readBuffer_full (q : List Byte) : readBuffer q [] = q.take 7 := by
  simp [readBuffer, takenBy, RxAnswer.full]

/-- Where every read is a full one only the last buffer is short. -/
theorem cuts_dropLast_length {q b : List Byte} (mem : b ∈ (cuts q []).dropLast) : b.length = 7 := by
  generalize hanswers : ([] : List RxAnswer) = answers at mem
  induction q, answers using reads_induction with
  | hnil => simp at mem
  | hread q answers waiting ih =>
    subst hanswers
    rw [cuts_cons waiting, readBuffer_full] at mem
    by_cases rest : q.drop (takenBy []) = []
    · rw [cuts_eq_nil_iff.mpr rest] at mem
      cases mem
    · rw [List.dropLast_cons_of_ne_nil (mt cuts_eq_nil_iff.mp rest), List.mem_cons] at mem
      rcases mem with rfl | later
      · have long : 7 < q.length := by simpa [takenBy, RxAnswer.full] using rest
        rw [List.length_take, Nat.min_eq_left long.le]
      · exact ih rfl later

/-- A settle and a drain show the diagnostics of the buffers they read. -/
theorem diagnostics_drain_settle (s : State) :
    diagnostics (drain (settle s)) = diagnostics s ++ s.waiting.flatMap diagsOf := by
  rw [drain_settle_eq]
  by_cases init : s.phase = .init
  · simp [diagnostics, init]
  · by_cases settled : s.phase = .settle <;> simp [diagnostics, init, settled, List.filterMap_cons]

/-- Settles O58: the buffers are a cut of the queue, and a drain is the fold of its buffers. -/
theorem drainReadsTheQueueInOrder : Obligations.DrainReadsTheQueueInOrder := by
  unfold Obligations.DrainReadsTheQueueInOrder
  intro s
  refine ⟨cuts_flatten_sublist _ _, fun b => cuts_length_le, fun no_timeout => ⟨cuts_flatten no_timeout _,
    fun b => cuts_getLast?_ne_nil no_timeout⟩, fun no_answer b mem => ?_, ?_, ?_, ?_⟩
  · rw [State.waiting, no_answer] at mem
    exact cuts_dropLast_length mem
  · rw [drain_settle_eq]
    rfl
  · rw [drain_settle_eq]
  · exact diagnostics_drain_settle s

/-! ## Every list of buffers is a drain (R144) -/

/-- Bytes from which a transport returns a buffer: its own, or, of an empty buffer, one that is lost. -/
def bytesFor (b : List Byte) : List Byte := if b = [] then [0x00#8] else b

/-- The answer with which it does. -/
def answerFor (b : List Byte) : RxAnswer := { takes := (bytesFor b).length, gives := b.length }

theorem bytesFor_ne_nil (b : List Byte) : bytesFor b ≠ [] := by
  unfold bytesFor
  split <;> simp_all

/-- The buffer is what it holds of the bytes for it. -/
theorem bytesFor_take (b : List Byte) : (bytesFor b).take b.length = b := by
  unfold bytesFor
  split <;> simp_all

theorem bytesFor_length_le {b : List Byte} (h : b.length ≤ 7) : (bytesFor b).length ≤ 7 := by
  unfold bytesFor
  split <;> simp_all

/-- A read with the answer for a short buffer takes the bytes for it. -/
theorem takenBy_answerFor {b : List Byte} (h : b.length ≤ 7) (answers : List RxAnswer) :
    takenBy (answerFor b :: answers) = (bytesFor b).length :=
  Nat.min_eq_right (bytesFor_length_le h)

/-- It returns the buffer. -/
theorem readBuffer_answerFor {b : List Byte} (h : b.length ≤ 7) (q : List Byte) (answers : List RxAnswer) :
    readBuffer (bytesFor b ++ q) (answerFor b :: answers) = b := by
  rw [readBuffer, takenBy_answerFor h, List.take_left]
  exact bytesFor_take b

/-- The bytes and the answers for a list of short buffers are read in these buffers. -/
theorem cuts_bytesFor {bufs : List (List Byte)} (h : ∀ b ∈ bufs, b.length ≤ 7) :
    cuts (bufs.flatMap bytesFor) (bufs.map answerFor) = bufs := by
  induction bufs with
  | nil => exact cuts_nil []
  | cons b bs ih =>
    have short : b.length ≤ 7 := h b List.mem_cons_self
    have rest := ih fun b' mem => h b' (List.mem_cons_of_mem b mem)
    rw [List.flatMap_cons, List.map_cons, cuts_cons (by simp [bytesFor_ne_nil]), readBuffer_answerFor short,
      takenBy_answerFor short, List.drop_left, List.tail_cons, rest]

/-- RxProcess of one buffer after another is the drain's fold. -/
theorem foldl_rxProcess (bufs : List (List Byte)) (s : State) :
    bufs.foldl (fun u b => rxProcess b u) s =
      { s with mirror := drainMirror bufs s.mirror, trace := s.trace ++ drainDiags bufs } := by
  induction bufs generalizing s with
  | nil => simp [drainMirror, drainDiags]
  | cons b bs ih =>
    rw [List.foldl_cons, ih, rxProcess_eq]
    simp [drainMirror, drainDiags]

/-- Settles O59: the bytes for the buffers arrive in the settle, and the answers for them are the answers to the
reads. -/
theorem everyBufferListCanBeDrained : Obligations.EveryBufferListCanBeDrained := by
  unfold Obligations.EveryBufferListCanBeDrained
  intro s bufs short
  have reads := cuts_bytesFor short
  refine ⟨bufs.flatMap bytesFor, bufs.map answerFor, _, rfl, reads, ?_, ?_⟩
  · rw [drain_settle_eq, foldl_rxProcess]
    exact congrArg (fun bs => drainMirror bs s.mirror) reads
  · rw [diagnostics_drain_settle, foldl_rxProcess, diagnostics, diagnostics, List.filterMap_append,
      filterMap_diag_drain]
    exact congrArg (fun bs => diagnostics s ++ bs.flatMap diagsOf) reads

end Sys2Proof.Machine
end
